-- ==== Sys2Proof/Word.lean ====
section
/-! DEFINITION. The widths the spec names (rule R13: all values are unsigned bit vectors of a stated width, or
mathematical integers). Nothing but names stands here; every operation on them is in Machine/. -/

namespace Sys2Proof

/-- u8: one byte of BUF (rule R50). -/
abbrev Byte := BitVec 8

/-- u32: a field of the PDS format, an offset, a length, a control register, a command word (rules R25, R70). -/
abbrev Word := BitVec 32

/-- u64: a block, a round key, a digest (rules R31, R38). -/
abbrev Block := BitVec 64

/-- u128: a long key, the digest constant, a UUID (rules R30, R32, R35). -/
abbrev Quad := BitVec 128

end Sys2Proof
end

