-- ==== Sys2Proof/Config.lean ====
section
/-! DEFINITION. The parameters of the spec: those it fixes (rules R9, R10, R12) and the two it leaves open
(rule R12: REG_BASE and T_OP), which have no body. -/

namespace Sys2Proof.Config

/-- PDS_MAGIC (rule R9). -/
def pdsMagic : Word := 0x50445331#32

/-- PDS_MIN_VERSION (rule R9). -/
def pdsMinVersion : Word := 1#32

/-- HDR_W, the width of the fixed header (rule R10). -/
def hdrW : Nat := 148

/-- DESC_W, the width of the fixed descriptor header (rule R10). -/
def descW : Nat := 32

/-- CRC_POLY (rule R9). -/
def crcPoly : Word := 0x04C11DB7#32

/-- CRC_INIT (rule R9). -/
def crcInit : Word := 0#32

/-- CRC_START, the first byte the header CRC covers (rule R9). -/
def crcStart : Nat := 12

/-- DEFAULT_CAP, FIND's traversal cap and the reset value of MAXDESC (rules R9, R34, R168). -/
def defaultCap : Nat := 32

/-- NULL_OFFSET, the end of a chain (rules R9, R58). -/
def nullOffset : Word := 0#32

/-- ROT_80 and ROT_128, the key schedule's left rotation (rules R9, R11). -/
def rot : Nat := 61

/-- CTR_OFF_80 (rule R9). -/
def ctrOff80 : Nat := 15

/-- CTR_OFF_128 (rule R9). -/
def ctrOff128 : Nat := 62

/-- What an offset of BUF that no host move has written reads as.
DESIGN CHOICE (notes/assumptions/3.md), unsafe for a claim about such a byte: the spec says that BUF is total on
[0, BUFLEN) and belongs to the host, and gives it no first contents (rules R46, R50; D31). -/
def unlistedByte : Byte := 0#8

/-- REG_BASE, the bus address of register 0 (rule R12, D2, D28). Open: the model names registers by number, and no
rule depends on it (notes/assumptions/6.md). -/
opaque regBase : Nat

/-- T_OP, the time a command takes (rules R12, R223). Open: a command is one step, and no rule depends on it
(notes/assumptions/10.md). -/
opaque tOp : Nat

end Sys2Proof.Config
end

