-- ==== Sys2Proof/Syntax.lean ====
section
/-! DEFINITION. The fifteen commands of spec/opcode_table.json (rule R71). A command has no operand field
(rule R70): every operand comes from a register, so no constructor has an argument. -/

namespace Sys2Proof

/-- One constructor per row of the opcode map (rule R71), in the table's order. -/
inductive Instr where
  /-- KEYEXP80 (rule R110). -/
  | keyexp80
  /-- KEYEXP128 (rule R111). -/
  | keyexp128
  /-- ENC (rule R113). -/
  | enc
  /-- DEC (rule R114). -/
  | dec
  /-- DG_INIT (rule R124). -/
  | dgInit
  /-- DG_BLOCK (rule R125). -/
  | dgBlock
  /-- DG_FINAL (rule R126). -/
  | dgFinal
  /-- DG_BUF (rule R128). -/
  | dgBuf
  /-- SCRAMBLE (rule R140). -/
  | scramble
  /-- UNSCRAMBLE (rule R141). -/
  | unscramble
  /-- PDS_VALIDATE (rule R152). -/
  | pdsValidate
  /-- WALK_START (rule R162). -/
  | walkStart
  /-- WALK_NEXT (rule R163). -/
  | walkNext
  /-- WALK_STOP (rule R167). -/
  | walkStop
  /-- FIND (rule R168). -/
  | find
  deriving DecidableEq, Repr

end Sys2Proof
end

