-- ==== Sys2Proof/WellFormed.lean ====
section
/-! DEFINITION. Which command words are well-formed. An Instr has no field, so every term of it is well-formed; what
can be ill-formed is a word. The two checks are written from rule R72's list of ILLEGAL words, the decoder from
rule R71's list of legal ones, and an obligation says that they agree. -/

namespace Sys2Proof

/-- Bits 31:8 are reserved and must be 0 (rule R70). -/
def reservedBitsClear (w : Word) : Bool :=
  w.toNat / 256 == 0

/-- The opcodes rule R72 lists as illegal, as closed ranges (low, high). -/
def illegalOpcodeRanges : List (Nat × Nat) :=
  [(0x00, 0x00), (0x05, 0x07), (0x0C, 0x0F), (0x12, 0x1F), (0x21, 0x27), (0x2C, 0xFF)]

/-- Bits 7:0 are none of rule R72's illegal opcodes. -/
def opcodeAssigned (w : Word) : Bool :=
  illegalOpcodeRanges.all fun r => !(decide (r.1 ≤ w.toNat % 256) && decide (w.toNat % 256 ≤ r.2))

/-- A well-formed command word: what rule R72 does not call illegal. -/
def wordWellFormed (w : Word) : Bool :=
  reservedBitsClear w && opcodeAssigned w

end Sys2Proof
end

