-- ==== Sys2Proof/Decode.lean ====
section
/-! DEFINITION. The command word (rules R70 to R72): a decoder, total on 32-bit words, that rejects by name, and the
encoder. -/

namespace Sys2Proof

/-- Why a command word is no command (rule R72). -/
inductive Reject where
  /-- A bit of 31:8 is not 0, "whatever its opcode". -/
  | reservedBitsSet
  /-- Bits 31:8 are 0 and bits 7:0 are no row of rule R71. -/
  | unassignedOpcode
  deriving DecidableEq, Repr

/-- What the decoder answers: a command, or a named rejection. -/
inductive Decoded where
  | instr (i : Instr)
  | rejected (r : Reject)
  deriving DecidableEq, Repr

/-- The opcode map, column "opcode" of rule R71. -/
def opcodeMap : List (BitVec 8 × Instr) :=
  [ (0x01#8, .keyexp80), (0x02#8, .keyexp128), (0x03#8, .enc), (0x04#8, .dec),
    (0x08#8, .dgInit), (0x09#8, .dgBlock), (0x0A#8, .dgFinal), (0x0B#8, .dgBuf),
    (0x10#8, .scramble), (0x11#8, .unscramble),
    (0x20#8, .pdsValidate),
    (0x28#8, .walkStart), (0x29#8, .walkNext), (0x2A#8, .walkStop), (0x2B#8, .find) ]

/-- Bits 7:0 of a command word (rule R70). -/
def opcodeField (w : Word) : BitVec 8 := w.extractLsb' 0 8

/-- Bits 31:8 of a command word (rule R70). -/
def rsvdField (w : Word) : BitVec 24 := w.extractLsb' 8 24

/-- Decode one command word (rules R70 to R72). -/
def decode (w : Word) : Decoded :=
  if rsvdField w ≠ 0#24 then .rejected .reservedBitsSet
  else
    match opcodeMap.find? fun r => r.1 == opcodeField w with
    | some r => .instr r.2
    | none => .rejected .unassignedOpcode

/-- The command word of each command, column "match" of rule R71. -/
def encode : Instr → Word
  | .keyexp80 => 0x00000001#32
  | .keyexp128 => 0x00000002#32
  | .enc => 0x00000003#32
  | .dec => 0x00000004#32
  | .dgInit => 0x00000008#32
  | .dgBlock => 0x00000009#32
  | .dgFinal => 0x0000000A#32
  | .dgBuf => 0x0000000B#32
  | .scramble => 0x00000010#32
  | .unscramble => 0x00000011#32
  | .pdsValidate => 0x00000020#32
  | .walkStart => 0x00000028#32
  | .walkNext => 0x00000029#32
  | .walkStop => 0x0000002A#32
  | .find => 0x0000002B#32

/-- The word that nbits bits of value w make: the bits above nbits are 0. -/
def tableWord (nbits w : Nat) : Word := BitVec.ofNat 32 (w % 2 ^ nbits)

/-- The instruction the decoder reads from an instruction whose bits are w, numbered as spec/opcode_table.json numbers
them. Every command is one 32-bit word (rule R70), so nothing longer decodes. -/
def decodeTableWord (nbits w : Nat) : Option Instr :=
  if nbits ≤ 32 then
    match decode (tableWord nbits w) with
    | .instr i => some i
    | .rejected _ => none
  else none

end Sys2Proof
end

