-- ==== Sys2Proof/Machine/State.lean ====
section
/-! DEFINITION. The state of CORE as 10_state.md gives it (rules R21, R24, R25, R38 to R40), with what stands outside
CORE and a step needs: the host's buffer BUF, the host's pending moves, and the value its last register read
returned. -/

namespace Sys2Proof.Machine

/-- BUF's contents: (offset, byte) pairs, offsets strictly rising and below 2^32, no entry equal to
`Config.unlistedByte`. Memory.wf (Machine/Ops.lean) says so. -/
abbrev Memory := List Host.Cell

/-- One move of the host (rules R20, R82, R210). A register is named by its number (rule R25); a written value is
truncated to the register's width (rule R44). -/
inductive HostMove where
  /-- The host writes `value` to register number `no`; to register 0x00 (CMD) this issues a command (rule R26). -/
  | write (no : Nat) (value : Nat)
  /-- The host reads register number `no`. -/
  | read (no : Nat)
  /-- The host puts one byte into its buffer (rule R82's `BUF <- bytes`, one byte at a time). -/
  | place (off : Word) (value : Byte)
  /-- The platform applies reset (rule R210). -/
  | reset
  deriving DecidableEq, Repr

/-- Everything the spec gives the machine. -/
structure State where
  /-- STATUS 0x01, ERR0 0x02, ERR1 0x03 (rules R27, R28). -/
  status : Word
  err0 : Word
  err1 : Word
  /-- KEYIN 0x08 (rule R30). -/
  keyin : Quad
  /-- BLKIN 0x09, BLKOUT 0x0A (rule R31). -/
  blkin : Block
  blkout : Block
  /-- DGIV 0x0B, DGCONST 0x0C, DGOUT 0x0D (rule R32). -/
  dgiv : Block
  dgconst : Quad
  dgout : Block
  /-- BUFLEN 0x10 (rule R33), MAXDESC 0x11 (rule R34), FTYPE 0x12 (rule R35). -/
  buflen : Word
  maxdesc : Word
  ftype : Quad
  /-- HDR_MAGIC 0x18 to HDR_VSTR 0x1D (rule R36). -/
  hdrMagic : Word
  hdrSize : Word
  hdrCrc : Word
  hdrVersion : Word
  hdrFirst : Word
  hdrVstr : BitVec 1024
  /-- DESC_TYPE 0x20, DESC_PAYOFF 0x21, DESC_PAYSIZE 0x22 (rule R37). -/
  descType : Quad
  descPayoff : Word
  descPaysize : Word
  /-- The seven flags of rule R24. -/
  rkv : Bool
  dgact : Bool
  holdv : Bool
  hdrv : Bool
  wact : Bool
  wfirst : Bool
  aborted : Bool
  /-- RK[0..31] (rule R38). -/
  rk : Vector Block 32
  /-- The streaming digest context (rule R39). -/
  acc : Block
  hold : Block
  /-- The walker context (rule R40). -/
  wcur : Word
  wprev : Word
  wcnt : Word
  wmax : Word
  /-- BUF, the host's buffer (rules R43, R50): not CORE's state, held here because a step is a function of State alone. -/
  buf : Memory
  /-- The host's moves not yet served, oldest first (the model's own field, notes/assumptions/1.md). -/
  host : List HostMove
  /-- What the host's last register read returned, zero-extended (the model's own field, notes/assumptions/4.md). -/
  readData : BitVec 1024
  deriving DecidableEq, Repr

/-- Why the machine stops. -/
inductive Fault where
  /-- A read of BUF outside [0, BUFLEN), raised by Machine/Ops.lean's orFault: rule R52 does not define MemRead there.
  Rule R57 says that no operation makes such a read, and the obligation StepAlwaysCompletes says that no state of the
  model does. Safe: the model stops where the spec says nothing. -/
  | bufReadOutOfBounds
  deriving DecidableEq, Repr

/-- Why an instruction has no meaning. -/
inductive Refusal where
  /-- An instruction of the opcode table that the model gives no meaning yet, raised by an arm of exec only; no arm does
  now. Safe: the model stops. -/
  | notModelled (mnemonic : String)
  deriving DecidableEq, Repr

/-- Right after reset (rule R46). RK, ACC, HOLD, WCUR, WPREV, WCNT, WMAX are unspecified there and unobservable; 0 here
is a DESIGN CHOICE (notes/assumptions/5.md). BUF lists nothing and no host move is pending. -/
def State.reset : State where
  status := 0#32
  err0 := 0#32
  err1 := 0#32
  keyin := 0#128
  blkin := 0#64
  blkout := 0#64
  dgiv := 0#64
  dgconst := 0#128
  dgout := 0#64
  buflen := 0#32
  maxdesc := 32#32
  ftype := 0#128
  hdrMagic := 0#32
  hdrSize := 0#32
  hdrCrc := 0#32
  hdrVersion := 0#32
  hdrFirst := 0#32
  hdrVstr := 0#1024
  descType := 0#128
  descPayoff := 0#32
  descPaysize := 0#32
  rkv := false
  dgact := false
  holdv := false
  hdrv := false
  wact := false
  wfirst := false
  aborted := false
  rk := Vector.replicate 32 0#64
  acc := 0#64
  hold := 0#64
  wcur := 0#32
  wprev := 0#32
  wcnt := 0#32
  wmax := 0#32
  buf := []
  host := []
  readData := 0#1024

end Sys2Proof.Machine
end

