-- ==== Sys2Proof/Machine/Codes.lean ====
section
/-! DEFINITION. The nineteen outcome codes of rule R181: their names here, their numbers in Code.byte. -/

namespace Sys2Proof.Machine

/-- The outcomes of rule R181, in the table's order. -/
inductive Code where
  | ok
  | bufferTooSmall
  | invalidMagic
  | invalidVersion
  | invalidHeaderSize
  | invalidCrc
  | maxDescriptorsExceeded
  | descriptorLoop
  | descriptorOutOfBounds
  | invalidDescriptorHeaderSize
  | payloadOutOfBounds
  | chainEnd
  | notFound
  | noKey
  | noDigest
  | noHeader
  | noWalk
  | illegalCommand
  | aborted
  deriving DecidableEq, Repr

/-- The column "code" of rule R181. -/
def Code.byte : Code → Byte
  | .ok => 0x00#8
  | .bufferTooSmall => 0x01#8
  | .invalidMagic => 0x02#8
  | .invalidVersion => 0x03#8
  | .invalidHeaderSize => 0x04#8
  | .invalidCrc => 0x05#8
  | .maxDescriptorsExceeded => 0x06#8
  | .descriptorLoop => 0x07#8
  | .descriptorOutOfBounds => 0x08#8
  | .invalidDescriptorHeaderSize => 0x09#8
  | .payloadOutOfBounds => 0x0A#8
  | .chainEnd => 0x10#8
  | .notFound => 0x11#8
  | .noKey => 0x20#8
  | .noDigest => 0x21#8
  | .noHeader => 0x22#8
  | .noWalk => 0x23#8
  | .illegalCommand => 0x24#8
  | .aborted => 0xFF#8

/-- The value of STATUS: the code in bits 7:0, 0 in bits 31:8 (rule R27). -/
def Code.word (c : Code) : Word := c.byte.setWidth 32

end Sys2Proof.Machine
end

