-- ==== Sys2Proof/Machine/Bits.lean ====
section
/-! DEFINITION. The bit-field and byte-order notation of rule R13: nib, byte assembly, and a bit vector given bit by
bit. -/

namespace Sys2Proof.Machine

/-- The n-bit value whose bit i is f i. -/
def bitsOf : (n : Nat) → (Nat → Bool) → BitVec n
  | 0, _ => 0#0
  | n + 1, f => BitVec.cons (f n) (bitsOf n f)

/-- nib(v, n) = v[4n+3 : 4n] (rule R13). -/
def nib {w : Nat} (v : BitVec w) (n : Nat) : BitVec 4 := v.extractLsb' (4 * n) 4

/-- Byte 0 is the least significant (rules R52, R54, R76, R77). -/
def leNat : List Byte → Nat
  | [] => 0
  | b :: bs => b.toNat + 256 * leNat bs

/-- The w-bit register value of a byte sequence: byte j in bits 8j+7:8j (rules R52, R53, R77). -/
def leBits (w : Nat) (bs : List Byte) : BitVec w := BitVec.ofNat w (leNat bs)

end Sys2Proof.Machine
end

