-- ==== Sys2Proof/Machine/Flags.lean ====
section
/-! DEFINITION. The FLAGS register, a read-only view of the seven flags (rule R29). No flag is a condition code
(rule R24): each is set and cleared by the operations' own rules. -/

namespace Sys2Proof.Machine

/-- FLAGS: bit 0 = RKV, 1 = DGACT, 2 = HOLDV, 3 = HDRV, 4 = WACT, 5 = WFIRST, 6 = ABORTED, bits 31:7 read as 0
(rule R29). -/
def flagsWord (s : State) : Word :=
  bitsOf 32 fun i =>
    match i with
    | 0 => s.rkv
    | 1 => s.dgact
    | 2 => s.holdv
    | 3 => s.hdrv
    | 4 => s.wact
    | 5 => s.wfirst
    | 6 => s.aborted
    | _ => false

end Sys2Proof.Machine
end

