-- ==== Sys2Proof/Machine/Operands.lean ====
section
/-! DEFINITION. The host-visible registers by number (rule R25), what a host read returns and what a host write
changes (rules R33, R44), and the assembly of operands from bytes (rules R75 to R77). -/

namespace Sys2Proof.Machine

/-- The registers of rule R25, in the table's order. -/
inductive Reg where
  | cmd
  | status
  | err0
  | err1
  | flags
  | keyin
  | blkin
  | blkout
  | dgiv
  | dgconst
  | dgout
  | buflen
  | maxdesc
  | ftype
  | hdrMagic
  | hdrSize
  | hdrCrc
  | hdrVersion
  | hdrFirst
  | hdrVstr
  | descType
  | descPayoff
  | descPaysize
  deriving DecidableEq, Repr

/-- The columns "No." and "name" of rule R25. -/
def regMap : List (Nat × Reg) :=
  [ (0x00, .cmd), (0x01, .status), (0x02, .err0), (0x03, .err1), (0x04, .flags),
    (0x08, .keyin), (0x09, .blkin), (0x0A, .blkout), (0x0B, .dgiv), (0x0C, .dgconst), (0x0D, .dgout),
    (0x10, .buflen), (0x11, .maxdesc), (0x12, .ftype),
    (0x18, .hdrMagic), (0x19, .hdrSize), (0x1A, .hdrCrc), (0x1B, .hdrVersion), (0x1C, .hdrFirst), (0x1D, .hdrVstr),
    (0x20, .descType), (0x21, .descPayoff), (0x22, .descPaysize) ]

/-- The register of a number, none where rule R25 has no row. -/
def regOfNo (no : Nat) : Option Reg := (regMap.find? fun r => r.1 == no).map Prod.snd

/-- What a host read of a register returns: 0 for the two WO registers, the register otherwise (rules R25, R44). -/
def regRead (r : Reg) (s : State) : BitVec 1024 :=
  match r with
  | .cmd => 0#1024
  | .status => s.status.setWidth 1024
  | .err0 => s.err0.setWidth 1024
  | .err1 => s.err1.setWidth 1024
  | .flags => (flagsWord s).setWidth 1024
  | .keyin => 0#1024
  | .blkin => s.blkin.setWidth 1024
  | .blkout => s.blkout.setWidth 1024
  | .dgiv => s.dgiv.setWidth 1024
  | .dgconst => s.dgconst.setWidth 1024
  | .dgout => s.dgout.setWidth 1024
  | .buflen => s.buflen.setWidth 1024
  | .maxdesc => s.maxdesc.setWidth 1024
  | .ftype => s.ftype.setWidth 1024
  | .hdrMagic => s.hdrMagic.setWidth 1024
  | .hdrSize => s.hdrSize.setWidth 1024
  | .hdrCrc => s.hdrCrc.setWidth 1024
  | .hdrVersion => s.hdrVersion.setWidth 1024
  | .hdrFirst => s.hdrFirst.setWidth 1024
  | .hdrVstr => s.hdrVstr
  | .descType => s.descType.setWidth 1024
  | .descPayoff => s.descPayoff.setWidth 1024
  | .descPaysize => s.descPaysize.setWidth 1024

/-- A host read by number: 0 where there is no such register (rule R44). -/
def hostRead (no : Nat) (s : State) : BitVec 1024 :=
  match regOfNo no with
  | some r => regRead r s
  | none => 0#1024

/-- A host write of BUFLEN, with any value, clears HDRV and WACT (rule R33). -/
def writeBuflen (v : Word) (s : State) : State := { s with buflen := v, hdrv := false, wact := false }

/-- What a host write stores: the value truncated to the register's width in the RW registers and in KEYIN, nothing in
the RO registers (rules R25, R44). A write of CMD stores nothing ("Nothing is retained of w", rule R26); the command it
issues is Machine/HostPort.lean's. -/
def regWrite (r : Reg) (v : Nat) (s : State) : State :=
  match r with
  | .keyin => { s with keyin := BitVec.ofNat 128 v }
  | .blkin => { s with blkin := BitVec.ofNat 64 v }
  | .dgiv => { s with dgiv := BitVec.ofNat 64 v }
  | .dgconst => { s with dgconst := BitVec.ofNat 128 v }
  | .buflen => writeBuflen (BitVec.ofNat 32 v) s
  | .maxdesc => { s with maxdesc := BitVec.ofNat 32 v }
  | .ftype => { s with ftype := BitVec.ofNat 128 v }
  | .cmd => s
  | .status => s
  | .err0 => s
  | .err1 => s
  | .flags => s
  | .blkout => s
  | .dgout => s
  | .hdrMagic => s
  | .hdrSize => s
  | .hdrCrc => s
  | .hdrVersion => s
  | .hdrFirst => s
  | .hdrVstr => s
  | .descType => s
  | .descPayoff => s
  | .descPaysize => s

/-- A host write by number: ignored where there is no such register (rule R44). -/
def hostWrite (no : Nat) (v : Nat) (s : State) : State :=
  match regOfNo no with
  | some r => regWrite r v s
  | none => s

/-- KEYEXP80's operand: KEYIN[79:0], KEYIN[127:80] ignored (rules R30, R110). -/
def shortKey (s : State) : BitVec 80 := s.keyin.extractLsb' 0 80

/-- Rule R75: the u64 of eight bytes, first byte least significant. -/
def blockOfBytes (bs : List Byte) : Block := leBits 64 bs

/-- Rule R76: K(k), the integer of a key's bytes, first byte least significant (16 bytes; a 10-byte key leaves
K[127:80] 0). -/
def keyOfBytes (bs : List Byte) : Quad := leBits 128 bs

/-- Rule R77: U(type), a UUID's register value, byte j in bits 8j+7:8j. -/
def uuidOfBytes (bs : List Byte) : Quad := leBits 128 bs

end Sys2Proof.Machine
end

