-- ==== Sys2Proof/Machine/Ops.lean ====
section
/-! DEFINITION. The operations the commands share: reading and filling BUF (20_memory.md), how a command ends (raise,
done, abort: rules R183, R184, R186), and the checks that come before its own (rule R188). -/

namespace Sys2Proof.Machine

/-- What a step or a meaning answers. -/
abbrev Answer := Host.Outcome State Fault Refusal

/-- The byte at an offset; an unlisted one reads as Config.unlistedByte. -/
def Memory.read : Memory → Nat → Byte
  | [], _ => Config.unlistedByte
  | (a, b) :: m, x => if x = a then b else Memory.read m x

/-- Put a byte at an offset, keeping the canonical form. -/
def Memory.write : Memory → Nat → Byte → Memory
  | [], x, v => if v = Config.unlistedByte then [] else [(x, v)]
  | (a, b) :: m, x, v =>
    if x < a then
      if v = Config.unlistedByte then (a, b) :: m else (x, v) :: (a, b) :: m
    else if x = a then
      if v = Config.unlistedByte then m else (a, v) :: m
    else (a, b) :: Memory.write m x v

/-- The canonical form, from offset lo on: offsets strictly rising and below 2^32 (rule R50: offsets are 32 bits), no
entry equal to what an unlisted offset reads as. -/
def Memory.wfFrom : Nat → Memory → Bool
  | _, [] => true
  | lo, (a, b) :: m => decide (lo ≤ a) && decide (a < 2 ^ 32) && b != Config.unlistedByte && Memory.wfFrom (a + 1) m

/-- The canonical form of BUF. -/
def Memory.wf (m : Memory) : Bool := Memory.wfFrom 0 m

/-- BUF[a]. -/
def bufByte (s : State) (a : Nat) : Byte := Memory.read s.buf a

/-- BUF[off], ..., BUF[off+n-1], first byte first. -/
def bufBytes (s : State) : Nat → Nat → List Byte
  | _, 0 => []
  | off, n + 1 => bufByte s off :: bufBytes s (off + 1) n

/-- int(off) +int n <=int int(BUFLEN): the region lies in the buffer (rules R52, R53; D17). -/
def inBuf (s : State) (off n : Nat) : Bool := decide (off + n ≤ s.buflen.toNat)

/-- MemBytes(off, n) (rule R53), none outside the bounds, where it is not defined. -/
def memBytes (s : State) (off n : Nat) : Option (List Byte) :=
  if inBuf s off n then some (bufBytes s off n) else none

/-- MemRead(off, n) (rule R52), as a value of 8n bits. -/
def memRead (s : State) (off n : Nat) : Option (BitVec (8 * n)) := (memBytes s off n).map (leBits (8 * n))

/-- A 4-byte field (rules R78, R151, R161). -/
def memRead32 (s : State) (off : Nat) : Option Word := memRead s off 4

/-- A block of the buffer (rule R65). -/
def memRead64 (s : State) (off : Nat) : Option Block := memRead s off 8

/-- Go on with what a read gave; a read outside the buffer stops the machine. -/
def orFault {α : Type} (r : Option α) (k : α → Answer) : Answer :=
  match r with
  | some a => k a
  | none => .fault .bufReadOutOfBounds

/-- The end of every command: STATUS, ERR0, ERR1 written together (rules R27, R28). -/
def finish (c : Code) (a b : Word) (s : State) : State := { s with status := c.word, err0 := a, err1 := b }

/-- raise E(a, b) (rule R183): the recoverable end. What the operation has written before stays written; there is no
trap entry, no saved register and no mode (rule R192). -/
def raise (c : Code) (a b : Word) (s : State) : State := finish c a b s

/-- done S (rule R184). -/
def done (c : Code) (s : State) : State := finish c 0#32 0#32 s

/-- abort (rule R186): the sticky end. -/
def abort (s : State) : State := { finish .aborted 0#32 0#32 s with aborted := true }

/-- While ABORTED = 1 a command executes nothing and changes no state, the first check of rule R188 (rule R186). -/
def unlessAborted (s : State) (k : Answer) : Answer := if s.aborted then .next s else k

/-- The sequencing check of rule R188: without its flag a command ends with its refusal and writes nothing else
(rules R112, R127, R166). -/
def requireFlag (f : Bool) (c : Code) (s : State) (k : Answer) : Answer :=
  if f then k else .next (raise c 0#32 0#32 s)

/-- The end of a command word that is none of the fifteen (rules R72, R190). -/
def illegalCommand (s : State) : Answer := unlessAborted s (.next (raise .illegalCommand 0#32 0#32 s))

/-- The host puts a byte into its buffer (rules R60, R82). CORE itself never writes BUF (rule R51). -/
def placeByte (off : Word) (v : Byte) (s : State) : State := { s with buf := Memory.write s.buf off.toNat v }

/-- The reset move (rules R46, R210): every piece of CORE's state takes its reset value, ABORTED included; BUF, the
host's pending moves and what its last read returned are not CORE's and stay. -/
def resetCore (s : State) : State := { State.reset with buf := s.buf, host := s.host, readData := s.readData }

end Sys2Proof.Machine
end

