-- ==== Sys2Proof/Machine/Cipher.lean ====
section
/-! DEFINITION. The Cipher Engine (40_cipher.md): its tables and pure functions (rules R100 to R109), and KEYEXP80,
KEYEXP128, ENC, DEC (rules R110 to R114). -/

namespace Sys2Proof.Machine

/-- SBOX (rule R100, entries from general knowledge: G1, notes/assumptions/7.md). -/
def sboxTable : List (BitVec 4) :=
  [0xC#4, 0x5#4, 0x6#4, 0xB#4, 0x9#4, 0x0#4, 0xA#4, 0xD#4, 0x3#4, 0xE#4, 0xF#4, 0x8#4, 0x4#4, 0x7#4, 0x1#4, 0x2#4]

/-- SBOX_INV (rule R101). -/
def sboxInvTable : List (BitVec 4) :=
  [0x5#4, 0xE#4, 0xF#4, 0x8#4, 0xC#4, 0x1#4, 0x2#4, 0xD#4, 0xB#4, 0x4#4, 0x6#4, 0x3#4, 0x0#4, 0x7#4, 0x9#4, 0xA#4]

/-- SBOX[x] (rule R100). -/
def sbox (x : BitVec 4) : BitVec 4 := sboxTable.getD x.toNat 0#4

/-- SBOX_INV[y] (rule R101). -/
def sboxInv (y : BitVec 4) : BitVec 4 := sboxInvTable.getD y.toNat 0#4

/-- P(i) (rule R102, positions from general knowledge: G2, notes/assumptions/7.md). -/
def perm (i : Nat) : Nat := if i = 63 then 63 else 16 * i % 63

/-- P_INV(j) (rule R103). -/
def permInv (j : Nat) : Nat := if j = 63 then 63 else 4 * j % 63

/-- SubLayer (rule R104): nibble n of the result is SBOX of nibble n. -/
def subLayer (s : Block) : Block := bitsOf 64 fun j => (sbox (nib s (j / 4))).getLsbD (j % 4)

/-- InvSubLayer (rule R104). -/
def invSubLayer (s : Block) : Block := bitsOf 64 fun j => (sboxInv (nib s (j / 4))).getLsbD (j % 4)

/-- PermLayer (rule R102): bit P(i) of the result is bit i of s, so bit j is bit P_INV(j) of s. -/
def permLayer (s : Block) : Block := bitsOf 64 fun j => s.getLsbD (permInv j)

/-- InvPermLayer (rule R103): bit i of the result is bit P(i) of t. -/
def invPermLayer (t : Block) : Block := bitsOf 64 fun i => t.getLsbD (perm i)

/-- Steps 2 to 4 of rule R105: rotate left by 61, SBOX on the top nibble, XOR the counter in at bit 15. -/
def nextKey80 (ctr : Nat) (k : BitVec 80) : BitVec 80 :=
  let r := k.rotateLeft Config.rot
  (sbox (r.extractLsb' 76 4) ++ r.extractLsb' 0 76) ^^^ (BitVec.ofNat 80 ctr <<< Config.ctrOff80)

/-- Steps 2 to 4 of rule R106: rotate left by 61, SBOX on each of the two top nibbles, XOR the counter in at bit 62. -/
def nextKey128 (ctr : Nat) (k : Quad) : Quad :=
  let r := k.rotateLeft Config.rot
  (sbox (r.extractLsb' 124 4) ++ sbox (r.extractLsb' 120 4) ++ r.extractLsb' 0 120)
    ^^^ (BitVec.ofNat 128 ctr <<< Config.ctrOff128)

/-- n round keys from key state k, the next counter value being ctr. The update after the last round key is never
used (rule R105, C4). -/
def scheduleFrom {w : Nat} (next : Nat → BitVec w → BitVec w) (top : BitVec w → Block) :
    Nat → Nat → BitVec w → List Block
  | 0, _, _ => []
  | n + 1, ctr, k => top k :: scheduleFrom next top n (ctr + 1) (next ctr k)

/-- "length is always exactly 32 regardless of key variant" (rule R107). -/
theorem scheduleFrom_length {w : Nat} (next : Nat → BitVec w → BitVec w) (top : BitVec w → Block) (n ctr : Nat)
    (k : BitVec w) : (scheduleFrom next top n ctr k).length = n := by
  induction n generalizing ctr k with
  | zero => rfl
  | succ n ih => simp [scheduleFrom, ih]

/-- Expand80 (rule R105): round key i is k[79:16]. -/
def expand80 (k : BitVec 80) : Vector Block 32 :=
  ⟨(scheduleFrom nextKey80 (fun k => k.extractLsb' 16 64) 32 1 k).toArray, by simp [scheduleFrom_length]⟩

/-- Expand128 (rule R106): round key i is k[127:64]. -/
def expand128 (k : Quad) : Vector Block 32 :=
  ⟨(scheduleFrom nextKey128 (fun k => k.extractLsb' 64 64) 32 1 k).toArray, by simp [scheduleFrom_length]⟩

/-- One round of Enc (rule R108). -/
def encRound (s rk : Block) : Block := permLayer (subLayer s) ^^^ rk

/-- One round of Dec (rule R109). -/
def decRound (rk s : Block) : Block := invSubLayer (invPermLayer (s ^^^ rk))

/-- Enc(rk, b) (rule R108): XOR round key 0, then rounds 1 to 31. -/
def encBlock (rk : Vector Block 32) (b : Block) : Block := rk.toList.tail.foldl encRound (b ^^^ rk[0])

/-- Dec(rk, c) (rule R109): rounds 31 down to 1, then XOR round key 0. -/
def decBlock (rk : Vector Block 32) (c : Block) : Block := rk.toList.tail.foldr decRound c ^^^ rk[0]

/-- KEYEXP80 (rule R110). -/
def execKeyexp80 (s : State) : Answer :=
  unlessAborted s (.next (done .ok { s with rk := expand80 (shortKey s), rkv := true, keyin := 0#128 }))

/-- KEYEXP128 (rule R111). -/
def execKeyexp128 (s : State) : Answer :=
  unlessAborted s (.next (done .ok { s with rk := expand128 s.keyin, rkv := true, keyin := 0#128 }))

/-- ENC (rules R112, R113). -/
def execEnc (s : State) : Answer :=
  unlessAborted s <| requireFlag s.rkv .noKey s <| .next (done .ok { s with blkout := encBlock s.rk s.blkin })

/-- DEC (rules R112, R114). -/
def execDec (s : State) : Answer :=
  unlessAborted s <| requireFlag s.rkv .noKey s <| .next (done .ok { s with blkout := decBlock s.rk s.blkin })

end Sys2Proof.Machine
end

