-- ==== Sys2Proof/Machine/Digest.lean ====
section
/-! DEFINITION. The Digest Engine (41_digest.md): PairKey, Compress, Digest (rules R121 to R123), and DG_INIT, DG_BLOCK,
DG_FINAL, DG_BUF (rules R124 to R128). Schedules are derived afresh and dropped: RK and RKV are not touched
(rules R41, R120). -/

namespace Sys2Proof.Machine

/-- PairKey(first, second) = second || first (rule R121). -/
def pairKey (first second : Block) : Quad := second ++ first

/-- Compress(acc, key) (rule R122). -/
def compress (acc : Block) (key : Quad) : Block := acc ^^^ encBlock (expand128 key) acc

/-- The data blocks of rule R123's loop: two at a time, a last unpaired one paired with itself. -/
def absorb : Block → List Block → Block
  | acc, [] => acc
  | acc, [w] => compress acc (pairKey w w)
  | acc, w :: w' :: ws => absorb (compress acc (pairKey w w')) ws

/-- Digest(w, iv, c) (rule R123): the data, then the finalization, always. -/
def digest (ws : List Block) (iv : Block) (c : Quad) : Block := compress (absorb iv ws) c

/-- n blocks of the buffer from block j on (rule R65), none where a read leaves the buffer. -/
def readBlocks (s : State) : Nat → Nat → Option (List Block)
  | _, 0 => some []
  | j, n + 1 =>
    match memRead64 s (8 * j), readBlocks s (j + 1) n with
    | some w, some ws => some (w :: ws)
    | _, _ => none

/-- DG_INIT (rule R124). -/
def execDgInit (s : State) : Answer :=
  unlessAborted s (.next (done .ok { s with acc := s.dgiv, hold := 0#64, holdv := false, dgact := true }))

/-- DG_BLOCK (rules R125, R127). -/
def execDgBlock (s : State) : Answer :=
  unlessAborted s <| requireFlag s.dgact .noDigest s <|
    if s.holdv then
      .next (done .ok { s with acc := compress s.acc (pairKey s.hold s.blkin), hold := 0#64, holdv := false })
    else
      .next (done .ok { s with hold := s.blkin, holdv := true })

/-- DG_FINAL (rules R126, R127). -/
def execDgFinal (s : State) : Answer :=
  unlessAborted s <| requireFlag s.dgact .noDigest s <|
    let a := if s.holdv then compress s.acc (pairKey s.hold s.hold) else s.acc
    .next (done .ok { s with
      dgout := compress a s.dgconst, acc := 0#64, hold := 0#64, holdv := false, dgact := false })

/-- DG_BUF (rule R128). -/
def execDgBuf (s : State) : Answer :=
  unlessAborted s <|
    if s.buflen.toNat % 8 ≠ 0 then .next (abort s)
    else
      orFault (readBlocks s 0 (s.buflen.toNat / 8)) fun ws =>
        .next (done .ok { s with dgout := digest ws s.dgiv s.dgconst })

end Sys2Proof.Machine
end

