-- ==== Sys2Proof/Machine/Scramble.lean ====
section
/-! DEFINITION. SCRAMBLE and UNSCRAMBLE (42_scramble.md): one block under a 128-bit key given with it. RK and RKV are
neither read nor written. -/

namespace Sys2Proof.Machine

/-- SCRAMBLE (rule R140). -/
def execScramble (s : State) : Answer :=
  unlessAborted s (.next (done .ok { s with blkout := encBlock (expand128 s.keyin) s.blkin, keyin := 0#128 }))

/-- UNSCRAMBLE (rule R141). -/
def execUnscramble (s : State) : Answer :=
  unlessAborted s (.next (done .ok { s with blkout := decBlock (expand128 s.keyin) s.blkin, keyin := 0#128 }))

end Sys2Proof.Machine
end

