-- ==== Sys2Proof/Machine/Validator.lean ====
section
/-! DEFINITION. The Descriptor-Store Validator (43_pds_validator.md): Crc (rule R150) and PDS_VALIDATE (rule R152). -/

namespace Sys2Proof.Machine

/-- n of the eight rounds of rule R150: shift left, and XOR the polynomial in if bit 31 was shifted out. -/
def crcRounds : Nat → Word → Word
  | 0, crc => crc
  | n + 1, crc =>
    if crc.getLsbD 31 then crcRounds n ((crc <<< 1) ^^^ Config.crcPoly) else crcRounds n (crc <<< 1)

/-- One byte: XORed into bits 31:24, then eight rounds (rule R150). -/
def crcByte (crc : Word) (b : Byte) : Word := crcRounds 8 (crc ^^^ (b.setWidth 32 <<< 24))

/-- Crc(bytes) (rule R150): no reflection, no final XOR, no length (C5). -/
def crc (bs : List Byte) : Word := bs.foldl crcByte Config.crcInit

/-- Step 6 of rule R152 and the success path, header_size and the fields before it being known. -/
def validateCrc (s : State) (magic version hsize : Word) : Answer :=
  orFault (memRead32 s 8) fun stored =>
  orFault (memBytes s Config.crcStart (hsize.toNat - Config.crcStart)) fun covered =>
  if crc covered ≠ stored then .next (raise .invalidCrc stored (crc covered) s)
  else
    orFault (memRead32 s 16) fun first =>
    orFault (memBytes s 20 128) fun vstr =>
    .next (done .ok { s with
      hdrMagic := magic, hdrSize := hsize, hdrCrc := stored, hdrVersion := version, hdrFirst := first,
      hdrVstr := leBits 1024 vstr, hdrv := true })

/-- Steps 1 to 5 of rule R152, each ending the operation on failure. -/
def validateHeader (s : State) : Answer :=
  if s.buflen.toNat < Config.hdrW then .next (raise .bufferTooSmall 0#32 0#32 s)
  else
    orFault (memRead32 s 0) fun magic =>
    if magic ≠ Config.pdsMagic then .next (raise .invalidMagic magic Config.pdsMagic s)
    else
      orFault (memRead32 s 12) fun version =>
      if version.toNat < Config.pdsMinVersion.toNat then
        .next (raise .invalidVersion version Config.pdsMinVersion s)
      else
        orFault (memRead32 s 4) fun hsize =>
        if hsize.toNat < Config.hdrW then
          .next (raise .invalidHeaderSize hsize (BitVec.ofNat 32 Config.hdrW) s)
        else if hsize.toNat > s.buflen.toNat then .next (raise .bufferTooSmall 0#32 0#32 s)
        else validateCrc s magic version hsize

/-- PDS_VALIDATE (rule R152): HDRV and WACT are cleared before any check. -/
def execPdsValidate (s : State) : Answer :=
  unlessAborted s (validateHeader { s with hdrv := false, wact := false })

end Sys2Proof.Machine
end

