-- ==== Sys2Proof/Machine/Walker.lean ====
section
/-! DEFINITION. The Descriptor-Store Walker (44_pds_walker.md): DescCheck (rules R160, R161, R164) and WALK_START,
WALK_NEXT, WALK_STOP, FIND (rules R162 to R168). -/

namespace Sys2Proof.Machine

/-- A descriptor header as read (rules R74, R161). -/
structure DescHeader where
  hs : Word
  po : Word
  ps : Word
  nx : Word
  ty : Quad
  deriving DecidableEq, Repr

/-- The descriptor header at an offset (rule R161), none where a read leaves the buffer. -/
def readDesc (s : State) (off : Nat) : Option DescHeader :=
  match memRead32 s off, memRead32 s (off + 4), memRead32 s (off + 8), memRead32 s (off + 12),
      memBytes s (off + 16) 16 with
  | some hs, some po, some ps, some nx, some ty => some ⟨hs, po, ps, nx, leBits 128 ty⟩
  | _, _, _, _, _ => none

/-- What DescCheck returns (rule R164): an error with its two details, or the tuple (ty, po, ps, nx). -/
inductive DescResult where
  | error (c : Code) (a b : Word)
  | view (ty : Quad) (po ps nx : Word)
  deriving DecidableEq, Repr

/-- Steps 4 and 5 of rule R164 on a header that has been read. -/
def descFieldsCheck (s : State) (d : DescHeader) : DescResult :=
  if d.hs.toNat < Config.descW then .error .invalidDescriptorHeaderSize d.hs (BitVec.ofNat 32 Config.descW)
  else if d.po.toNat + d.ps.toNat > s.buflen.toNat then .error .payloadOutOfBounds d.po d.ps
  else .view d.ty d.po d.ps d.nx

/-- DescCheck(cur, prev, cnt, first, cap) (rule R164), the sums taken in integers. none only if a read left the
buffer, which step 3 rules out. -/
def descCheck (s : State) (cur prev : Word) (cnt : Nat) (first : Bool) (cap : Nat) : Option DescResult :=
  if cnt ≥ cap then some (.error .maxDescriptorsExceeded 0#32 0#32)
  else if first = false ∧ cur.toNat ≤ prev.toNat then some (.error .descriptorLoop cur 0#32)
  else if cur.toNat + Config.descW > s.buflen.toNat then some (.error .descriptorOutOfBounds cur 0#32)
  else (readDesc s cur.toNat).map (descFieldsCheck s)

/-- WALK_START (rules R162, R166). -/
def execWalkStart (s : State) : Answer :=
  unlessAborted s <| requireFlag s.hdrv .noHeader s <|
    .next (done .ok { s with
      wcur := s.hdrFirst, wprev := 0#32, wcnt := 0#32, wfirst := true, wmax := s.maxdesc, wact := true })

/-- WALK_NEXT (rules R163, R166). -/
def execWalkNext (s : State) : Answer :=
  unlessAborted s <| requireFlag s.wact .noWalk s <|
    if s.wcur = Config.nullOffset then .next (done .chainEnd { s with wact := false })
    else
      orFault (descCheck s s.wcur s.wprev s.wcnt.toNat s.wfirst s.wmax.toNat) fun r =>
        match r with
        | .error c a b => .next (raise c a b { s with wact := false })
        | .view ty po ps nx =>
          .next (done .ok { s with
            descType := ty, descPayoff := po, descPaysize := ps,
            wprev := s.wcur, wcur := nx, wcnt := s.wcnt + 1#32, wfirst := false })

/-- WALK_STOP (rules R166, R167). -/
def execWalkStop (s : State) : Answer :=
  unlessAborted s <| requireFlag s.wact .noWalk s <| .next (done .ok { s with wact := false })

/-- How FIND's traversal ends (rule R168). -/
inductive FindResult where
  | error (c : Code) (a b : Word)
  | found (ty : Quad) (po ps : Word)
  | notFound
  deriving DecidableEq, Repr

/-- FIND's loop (rule R168) with cnt = cap - left descriptors visited. At left = 0 the count has reached the cap, which
is step 1 of rule R164. -/
def findLoop (s : State) (cap : Nat) : Nat → Word → Word → Bool → Option FindResult
  | 0, cur, _, _ =>
    if cur = Config.nullOffset then some .notFound else some (.error .maxDescriptorsExceeded 0#32 0#32)
  | left + 1, cur, prev, first =>
    if cur = Config.nullOffset then some .notFound
    else
      match descCheck s cur prev (cap - (left + 1)) first cap with
      | none => none
      | some (.error c a b) => some (.error c a b)
      | some (.view ty po ps nx) =>
        if ty = s.ftype then some (.found ty po ps) else findLoop s cap left nx cur false

/-- FIND (rules R166, R168): the whole lookup on transient values, cap 32; the walker context is not touched. -/
def execFind (s : State) : Answer :=
  unlessAborted s <| requireFlag s.hdrv .noHeader s <|
    orFault (findLoop s Config.defaultCap Config.defaultCap s.hdrFirst 0#32 true) fun r =>
      match r with
      | .error c a b => .next (raise c a b s)
      | .found ty po ps => .next (done .ok { s with descType := ty, descPayoff := po, descPaysize := ps })
      | .notFound => .next (done .notFound s)

end Sys2Proof.Machine
end

