-- ==== Sys2Proof/Machine/Dispatch.lean ====
section
/-! DEFINITION. One arm per command of the opcode map (rule R71). -/

namespace Sys2Proof.Machine

def exec (i : Instr) (s : State) : Host.Outcome State Fault Refusal :=
  match i with
  | .keyexp80 => Sys2Proof.Machine.execKeyexp80 s
  | .keyexp128 => Sys2Proof.Machine.execKeyexp128 s
  | .enc => Sys2Proof.Machine.execEnc s
  | .dec => Sys2Proof.Machine.execDec s
  | .dgInit => Sys2Proof.Machine.execDgInit s
  | .dgBlock => Sys2Proof.Machine.execDgBlock s
  | .dgFinal => Sys2Proof.Machine.execDgFinal s
  | .dgBuf => Sys2Proof.Machine.execDgBuf s
  | .scramble => Sys2Proof.Machine.execScramble s
  | .unscramble => Sys2Proof.Machine.execUnscramble s
  | .pdsValidate => Sys2Proof.Machine.execPdsValidate s
  | .walkStart => Sys2Proof.Machine.execWalkStart s
  | .walkNext => Sys2Proof.Machine.execWalkNext s
  | .walkStop => Sys2Proof.Machine.execWalkStop s
  | .find => Sys2Proof.Machine.execFind s

end Sys2Proof.Machine
end

