-- ==== Sys2Proof/Machine/HostPort.lean ====
section
/-! DEFINITION. Serving one move of the host (rules R20, R26, R44, R210). -/

namespace Sys2Proof.Machine

/-- A write of w to CMD issues one command, run to its end (rules R26, R70 to R72, R190). The check of ABORTED, first in
rule R188, stands in every meaning and in illegalCommand. -/
def issueCommand (w : Word) (s : State) : Answer :=
  match decode w with
  | .instr i => exec i s
  | .rejected _ => illegalCommand s

/-- A host write: of CMD (register 0x00) it issues a command, of another register it stores (rules R25, R26, R44). -/
def serveWrite (no value : Nat) (s : State) : Answer :=
  match regOfNo no with
  | some .cmd => issueCommand (BitVec.ofNat 32 value) s
  | _ => .next (hostWrite no value s)

/-- One move of the host; a read has no side effect on CORE. -/
def serveMove (m : HostMove) (s : State) : Answer :=
  match m with
  | .write no value => serveWrite no value s
  | .read no => .next { s with readData := hostRead no s }
  | .place off value => .next (placeByte off value s)
  | .reset => .next (resetCore s)

/-- The write of a command word to CMD. -/
def cmdMove (w : Word) : HostMove := .write 0x00 w.toNat

end Sys2Proof.Machine
end

