-- ==== Sys2Proof/Machine/Step.lean ====
section
/-! DEFINITION. One step of the machine: it serves the host's oldest pending move (rule R20). -/

namespace Sys2Proof.Machine

/-- With no move pending CORE waits for the next write to CMD (rule R192) and nothing changes. -/
def step (s : State) : Host.Outcome State Fault Refusal :=
  match s.host with
  | [] => .next s
  | m :: rest => serveMove m { s with host := rest }

/-- s with the write of a command word to CMD as the host's next move (notes/assumptions/2.md). -/
def State.withFetchWord (s : State) (nbits w : Nat) : State :=
  { s with host := cmdMove (tableWord nbits w) :: s.host }

end Sys2Proof.Machine
end

