-- ==== Sys2Proof/Machine/HostApi.lean ====
section
/-! DEFINITION. The source's API operations as host moves: the pseudo-instructions of rule R83 (D25). None is a command
of its own. Those whose moves do not depend on what a register read returned are lists of host moves, which `runMoves`
serves; validate_header, for_each_descriptor and find_descriptor are host programs that go on with what each `RD`
returned. -/

namespace Sys2Proof.Machine

/-- Serve a list of host moves, one step each, and nothing else. -/
def runMoves (ms : List HostMove) (s : State) : Answer :=
  Host.Core.run Sys2Proof.core ms.length { s with host := ms }

/-- `WR KEYIN, K(k)` (rule R83). -/
def wrKey (k : List Byte) : HostMove := .write 0x08 (keyOfBytes k).toNat

/-- `WR BLKIN, b` (rule R83). -/
def wrBlock (b : Block) : HostMove := .write 0x09 b.toNat

/-- `BUF <- bytes` from offset 0, then `WR BUFLEN, len` (rules R82, R83). -/
def setBuffer (bs : List Byte) : List HostMove :=
  (bs.zipIdx.map fun p => HostMove.place (BitVec.ofNat 32 p.2) p.1) ++ [.write 0x10 bs.length]

/-- construct cipher from a 10-byte key. -/
def apiCipher80 (k : List Byte) : List HostMove := [wrKey k, cmdMove (encode .keyexp80)]

/-- construct cipher from a 16-byte key. -/
def apiCipher128 (k : List Byte) : List HostMove := [wrKey k, cmdMove (encode .keyexp128)]

/-- `encrypt_block(b)`. -/
def apiEncrypt (b : Block) : List HostMove := [wrBlock b, cmdMove (encode .enc), .read 0x0A]

/-- `decrypt_block(b)`. -/
def apiDecrypt (b : Block) : List HostMove := [wrBlock b, cmdMove (encode .dec), .read 0x0A]

/-- scramble(k, b). -/
def apiScramble (k : List Byte) (b : Block) : List HostMove :=
  [wrKey k, wrBlock b, cmdMove (encode .scramble), .read 0x0A]

/-- unscramble(k, b). -/
def apiUnscramble (k : List Byte) (b : Block) : List HostMove :=
  [wrKey k, wrBlock b, cmdMove (encode .unscramble), .read 0x0A]

/-- `digest(bytes, iv, c)`. -/
def apiDigest (bs : List Byte) (iv : Block) (c : Quad) : List HostMove :=
  setBuffer bs ++ [.write 0x0B iv.toNat, .write 0x0C c.toNat, cmdMove (encode .dgBuf), .read 0x0D]

/-- One block of `digest_stream`: `WR BLKIN, w`; `DG_BLOCK`. -/
def feedBlock (w : Block) : List HostMove := [wrBlock w, cmdMove (encode .dgBlock)]

/-- `digest_stream(blocks, iv, c)`. -/
def apiDigestStream (ws : List Block) (iv : Block) (c : Quad) : List HostMove :=
  [.write 0x0B iv.toNat, cmdMove (encode .dgInit)] ++ ws.flatMap feedBlock
    ++ [.write 0x0C c.toNat, cmdMove (encode .dgFinal), .read 0x0D]

/-- What an operation of the source answers its caller, and the machine after it. -/
abbrev Reply (α : Type) := Host.Outcome (α × State) Fault Refusal

/-- How an operation that can fail ends. -/
inductive ApiEnd (α : Type) where
  /-- ok, with what the operation returns. -/
  | ok (a : α)
  /-- The error: the triple of rule R180, as the host read it from STATUS, ERR0, ERR1. -/
  | error (status err0 err1 : Word)
  /-- The host's loop of for_each_descriptor has not ended within its turns: no state in which ABORTED = 1 means
  STATUS = 0xFF (rule R47) gives this (the lemma apiForEach_ends of Laws/HostApi.lean). -/
  | looping
  deriving DecidableEq, Repr

/-- The parsed header `validate_header` returns by value (rule R36). -/
structure HeaderValue where
  magic : Word
  size : Word
  crc : Word
  version : Word
  first : Word
  vstr : BitVec 1024
  deriving DecidableEq, Repr

/-- The descriptor view `visit` is given (rule R37). -/
structure DescView where
  type : Quad
  payOff : Word
  paySize : Word
  deriving DecidableEq, Repr

/-- Go on after some host moves. -/
def andThen {α : Type} (a : Answer) (k : State → Reply α) : Reply α :=
  match a with
  | .next t => k t
  | .fault f => .fault f
  | .refused r => .refused r

/-- `RD <reg>` (rule R82): the host reads register `no` and goes on with the value returned. -/
def rd {α : Type} (no : Nat) (s : State) (k : BitVec 1024 → State → Reply α) : Reply α :=
  andThen (runMoves [.read no] s) fun t => k t.readData t

/-- `RD` of a 32-bit register. -/
def rdWord {α : Type} (no : Nat) (s : State) (k : Word → State → Reply α) : Reply α :=
  rd no s fun v t => k (v.setWidth 32) t

/-- Leave with the error STATUS has named; its details are `RD ERR0`, `RD ERR1` (rule R180; notes/assumptions/18.md). -/
def leaveWithError {α : Type} (status : Word) (s : State) : Reply (ApiEnd α) :=
  rdWord 0x02 s fun e0 s => rdWord 0x03 s fun e1 s => .next (.error status e0 e1, s)

/-- `RD HDR_*`: the six header registers. -/
def rdHeader {α : Type} (s : State) (k : HeaderValue → State → Reply α) : Reply α :=
  rdWord 0x18 s fun magic s => rdWord 0x19 s fun size s => rdWord 0x1A s fun crc s =>
  rdWord 0x1B s fun version s => rdWord 0x1C s fun first s => rd 0x1D s fun vstr s =>
  k ⟨magic, size, crc, version, first, vstr⟩ s

/-- `RD DESC_TYPE`, `RD DESC_PAYOFF`, `RD DESC_PAYSIZE`. -/
def rdView {α : Type} (s : State) (k : DescView → State → Reply α) : Reply α :=
  rd 0x20 s fun ty s => rdWord 0x21 s fun po s => rdWord 0x22 s fun ps s => k ⟨ty.setWidth 128, po, ps⟩ s

/-- `validate_header(data)`: `BUF <- data`; `WR BUFLEN, len`; `PDS_VALIDATE`; `RD STATUS`; on OK `RD HDR_*`. -/
def apiValidateHeader (bs : List Byte) (s : State) : Reply (ApiEnd HeaderValue) :=
  andThen (runMoves (setBuffer bs ++ [cmdMove (encode .pdsValidate)]) s) fun s =>
  rdWord 0x01 s fun status s =>
  if status = Code.ok.word then rdHeader s fun h s => .next (.ok h, s)
  else leaveWithError status s

/-- The loop of `for_each_descriptor`: `WALK_NEXT`; `RD STATUS`; on OK visit the view read from DESC_*, and if visit
says stop, `WALK_STOP` and leave with ok, else loop; on ChainEnd leave with ok; else leave with the error. `visit` is
the caller's: it is given the view and what it has gathered so far, and answers what it has gathered now and whether
to stop. At most n turns are taken. -/
def forEachLoop {α : Type} (visit : DescView → α → α × Bool) : Nat → α → State → Reply (ApiEnd α)
  | 0, _, s => .next (.looping, s)
  | n + 1, a, s =>
    andThen (runMoves [cmdMove (encode .walkNext)] s) fun s =>
    rdWord 0x01 s fun status s =>
    if status = Code.ok.word then
      rdView s fun v s =>
      if (visit v a).2 then
        andThen (runMoves [cmdMove (encode .walkStop)] s) fun s => .next (.ok (visit v a).1, s)
      else forEachLoop visit n (visit v a).1 s
    else if status = Code.chainEnd.word then .next (.ok a, s)
    else leaveWithError status s

/-- `for_each_descriptor(data, header, max, visit)`, the data and header being those of the last `validate_header`:
`WR MAXDESC, max`; `WALK_START`; the loop. A walk yields at most WMAX times (rule R222), so the host leaves the loop
within WMAX + 1 turns. -/
def apiForEach {α : Type} (max : Word) (visit : DescView → α → α × Bool) (a : α) (s : State) : Reply (ApiEnd α) :=
  andThen (runMoves [.write 0x11 max.toNat, cmdMove (encode .walkStart)] s) fun s =>
  forEachLoop visit (s.wmax.toNat + 1) a s

/-- `find_descriptor(data, header, type)`, the data and header being those of the last `validate_header`:
`WR FTYPE, U(type)`; `FIND`; `RD STATUS`; on OK the payload is BUF[DESC_PAYOFF, DESC_PAYOFF + DESC_PAYSIZE), which the
host reads from its own memory (rule R37); on NotFound it is absent; else the error. -/
def apiFind (uuid : List Byte) (s : State) : Reply (ApiEnd (Option (List Byte))) :=
  andThen (runMoves [.write 0x12 (uuidOfBytes uuid).toNat, cmdMove (encode .find)] s) fun s =>
  rdWord 0x01 s fun status s =>
  if status = Code.ok.word then
    rdWord 0x21 s fun po s => rdWord 0x22 s fun ps s => .next (.ok (some (bufBytes s po.toNat ps.toNat)), s)
  else if status = Code.notFound.word then .next (.ok none, s)
  else leaveWithError status s

end Sys2Proof.Machine
end

