-- ==== Sys2Proof/Safety.lean ====
section
/-! DEFINITION. What counts as a safe state and run, and the words the statements use: the invariants of rule R47 and of
the other whole-machine rules, the events of rule R24, what two states that differ only in unspecified values have in
common (rule R212), and the buffer read field by field without the model's own read operations. -/

namespace Sys2Proof.Machine

/-- The invariant of rule R47, with the three facts it takes for granted: BUF is in canonical form, STATUS holds one of
rule R181's codes and nothing above bit 7 (rules R27, R181). -/
structure State.Inv (s : State) : Prop where
  bufCanonical : Memory.wf s.buf = true
  statusIsCode : ∃ c : Code, s.status = c.word
  holdNeedsDigest : s.holdv = true → s.dgact = true
  walkNeedsHeader : s.wact = true → s.hdrv = true
  countWithinCap : s.wact = true → s.wcnt.toNat ≤ s.wmax.toNat
  firstMeansNone : s.wact = true → s.wfirst = true → s.wcnt = 0#32
  laterMeansSome : s.wact = true → s.wfirst = false → 1 ≤ s.wcnt.toNat
  abortedStatus : s.aborted = true → s.status = 0xFF#32

/-- While HDRV = 1, HDR_* hold a header PDS_VALIDATE accepted for the current BUFLEN (rules R24, R33, R152). -/
structure State.HeaderInv (s : State) : Prop where
  magic : s.hdrv = true → s.hdrMagic = 0x50445331#32
  version : s.hdrv = true → 1 ≤ s.hdrVersion.toNat
  sizeLow : s.hdrv = true → 148 ≤ s.hdrSize.toNat
  sizeHigh : s.hdrv = true → s.hdrSize.toNat ≤ s.buflen.toNat

/-- The bound of rule R170 on an enumeration under way: offsets visited are strictly increasing and inside the buffer,
so the number of yields is at most the last offset, which is at most BUFLEN - 32. -/
def State.WalkBound (s : State) : Prop :=
  s.wact = true → s.wfirst = false → s.wcnt.toNat ≤ s.wprev.toNat ∧ s.wprev.toNat + 32 ≤ s.buflen.toNat

/-- The next step serves the host's issue of command i, and CORE accepts commands. -/
def issues (s : State) (i : Instr) : Prop :=
  s.aborted = false ∧ ∃ v rest, s.host = .write 0x00 v :: rest ∧ decode (BitVec.ofNat 32 v) = .instr i

/-- The next step serves a host write of BUFLEN. -/
def writesBuflen (s : State) : Prop := ∃ v rest, s.host = .write 0x10 v :: rest

/-- The next step serves a reset. -/
def resets (s : State) : Prop := ∃ rest, s.host = .reset :: rest

/-- s and t agree on everything but internal registers whose validity flag is 0 (rules R46, R212, U7). -/
structure SameObservables (s t : State) : Prop where
  same : t = { s with
    rk := t.rk, acc := t.acc, hold := t.hold,
    wcur := t.wcur, wprev := t.wprev, wcnt := t.wcnt, wmax := t.wmax }
  rk : s.rkv = true → t.rk = s.rk
  acc : s.dgact = true → t.acc = s.acc
  hold : s.holdv = true → t.hold = s.hold
  walk : s.wact = true → t.wcur = s.wcur ∧ t.wprev = s.wprev ∧ t.wcnt = s.wcnt ∧ t.wmax = s.wmax

/-- The 4-byte field at an offset, `BUF[off+3] || BUF[off+2] || BUF[off+1] || BUF[off]` (rule R54). -/
def u32At (s : State) (off : Nat) : Word :=
  bufByte s (off + 3) ++ bufByte s (off + 2) ++ bufByte s (off + 1) ++ bufByte s off

/-- The block at an offset: high half `u32At (off + 4)`, low half `u32At off` (rule R54). -/
def u64At (s : State) (off : Nat) : Block := u32At s (off + 4) ++ u32At s off

/-- The 16-byte string at an offset, byte j in bits 8j+7:8j (rule R77). -/
def u128At (s : State) (off : Nat) : Quad := u64At s (off + 8) ++ u64At s off

/-- BUF[off], ..., BUF[off+n-1]. -/
def bytesAt (s : State) (off n : Nat) : List Byte := (List.range n).map fun j => bufByte s (off + j)

/-- The columns of rule R45's table, STATUS, ERR0, ERR1 and ABORTED left out: every operation reads or writes those. -/
inductive Column where
  | keyin
  | blkin
  | blkout
  | rk
  | rkv
  | dgiv
  | dgconst
  | dgout
  | digest
  | dgact
  | buffer
  | header
  | hdrv
  | maxdesc
  | walker
  | wact
  | ftype
  | desc
  deriving DecidableEq, Repr

/-- The cells of rule R45's table that are not blank, row by row. -/
def touches : Instr → List Column
  | .keyexp80 => [.keyin, .rk, .rkv]
  | .keyexp128 => [.keyin, .rk, .rkv]
  | .enc => [.blkin, .blkout, .rk, .rkv]
  | .dec => [.blkin, .blkout, .rk, .rkv]
  | .dgInit => [.dgiv, .digest, .dgact]
  | .dgBlock => [.blkin, .digest, .dgact]
  | .dgFinal => [.dgconst, .dgout, .digest, .dgact]
  | .dgBuf => [.dgiv, .dgconst, .dgout, .buffer]
  | .scramble => [.keyin, .blkin, .blkout]
  | .unscramble => [.keyin, .blkin, .blkout]
  | .pdsValidate => [.buffer, .header, .hdrv, .wact]
  | .walkStart => [.header, .hdrv, .maxdesc, .walker, .wact]
  | .walkNext => [.buffer, .walker, .wact, .desc]
  | .walkStop => [.wact]
  | .find => [.buffer, .header, .hdrv, .ftype, .desc]

/-- s with a column's state taken from x. -/
def Column.copy (c : Column) (x s : State) : State :=
  match c with
  | .keyin => { s with keyin := x.keyin }
  | .blkin => { s with blkin := x.blkin }
  | .blkout => { s with blkout := x.blkout }
  | .rk => { s with rk := x.rk }
  | .rkv => { s with rkv := x.rkv }
  | .dgiv => { s with dgiv := x.dgiv }
  | .dgconst => { s with dgconst := x.dgconst }
  | .dgout => { s with dgout := x.dgout }
  | .digest => { s with acc := x.acc, hold := x.hold, holdv := x.holdv }
  | .dgact => { s with dgact := x.dgact }
  | .buffer => { s with buf := x.buf, buflen := x.buflen }
  | .header => { s with
      hdrMagic := x.hdrMagic, hdrSize := x.hdrSize, hdrCrc := x.hdrCrc,
      hdrVersion := x.hdrVersion, hdrFirst := x.hdrFirst, hdrVstr := x.hdrVstr }
  | .hdrv => { s with hdrv := x.hdrv }
  | .maxdesc => { s with maxdesc := x.maxdesc }
  | .walker => { s with wcur := x.wcur, wprev := x.wprev, wcnt := x.wcnt, wmax := x.wmax, wfirst := x.wfirst }
  | .wact => { s with wact := x.wact }
  | .ftype => { s with ftype := x.ftype }
  | .desc => { s with descType := x.descType, descPayoff := x.descPayoff, descPaysize := x.descPaysize }

/-- A visit that stops at the first descriptor of a type and keeps its view. -/
def firstOf (ty : Quad) (v : DescView) (a : Option DescView) : Option DescView × Bool :=
  if v.type = ty then (some v, true) else (a, false)

/-- s after a command that wrote STATUS, ERR0, ERR1 and nothing else. -/
def ends (code a b : Word) (s : State) : State := { s with status := code, err0 := a, err1 := b }

end Sys2Proof.Machine
end

