-- ==== Sys2Proof/Certificates/Slice0/Obligations.lean ====
section
/-! DEFINITION. The statements for the provers. Each docstring names the rule of spec/ the statement formalises. -/

open Sys2Proof Sys2Proof.Machine

/-- Rule R71: each of the fifteen words is its row's command. -/
def Obligations.TableWordsDecode : Prop :=
  decode 0x00000001#32 = .instr .keyexp80 ∧ decode 0x00000002#32 = .instr .keyexp128 ∧
  decode 0x00000003#32 = .instr .enc ∧ decode 0x00000004#32 = .instr .dec ∧
  decode 0x00000008#32 = .instr .dgInit ∧ decode 0x00000009#32 = .instr .dgBlock ∧
  decode 0x0000000A#32 = .instr .dgFinal ∧ decode 0x0000000B#32 = .instr .dgBuf ∧
  decode 0x00000010#32 = .instr .scramble ∧ decode 0x00000011#32 = .instr .unscramble ∧
  decode 0x00000020#32 = .instr .pdsValidate ∧ decode 0x00000028#32 = .instr .walkStart ∧
  decode 0x00000029#32 = .instr .walkNext ∧ decode 0x0000002A#32 = .instr .walkStop ∧
  decode 0x0000002B#32 = .instr .find

/-- Rules R70 to R72: decoding an encoded command gives it back, its word is well-formed, and a word that decodes to a
command is that command's word. -/
def Obligations.DecodeEncodeAgree : Prop :=
  (∀ i : Instr, wordWellFormed (encode i) = true ∧ decode (encode i) = .instr i) ∧
  (∀ (w : Word) (i : Instr), decode w = .instr i → encode i = w) ∧
  (∀ w : Word, wordWellFormed w = true ↔ ∃ i, decode w = .instr i)

/-- Rule R72: the illegal words are those listed, a decoder is total, and an illegal command ends with code 0x24 and
changes no other state. -/
def Obligations.IllegalWordsAreRefused : Prop :=
  (∀ w : Word, (∃ r, decode w = .rejected r) ↔
    (w.toNat / 256 ≠ 0 ∨ w.toNat % 256 = 0 ∨ (0x05 ≤ w.toNat % 256 ∧ w.toNat % 256 ≤ 0x07) ∨
      (0x0C ≤ w.toNat % 256 ∧ w.toNat % 256 ≤ 0x0F) ∨ (0x12 ≤ w.toNat % 256 ∧ w.toNat % 256 ≤ 0x1F) ∨
      (0x21 ≤ w.toNat % 256 ∧ w.toNat % 256 ≤ 0x27) ∨ 0x2C ≤ w.toNat % 256)) ∧
  (∀ w : Word, (∃ i, decode w = .instr i) ∨ ∃ r, decode w = .rejected r) ∧
  (∀ (s : State) (v : Nat) (rest : List HostMove) (r : Reject), s.aborted = false → s.host = .write 0x00 v :: rest →
    decode (BitVec.ofNat 32 v) = .rejected r → step s = .next (ends 0x24#32 0#32 0#32 { s with host := rest }))

/-- Rule R26: a host write of a word to CMD runs the command it decodes to; the move is taken off the host's list
first (the model's own list, notes/assumptions/1.md) and nothing else is added. -/
def Obligations.StepRunsDecodedInstruction : Prop :=
  (∀ (s : State) (v : Nat) (rest : List HostMove) (i : Instr), s.host = .write 0x00 v :: rest →
    decode (BitVec.ofNat 32 v) = .instr i → step s = exec i { s with host := rest }) ∧
  (∀ (s : State) (i : Instr), step (s.withFetchWord 32 (encode i).toNat) = exec i s)

/-- Rules R20, R44, R192: with no move pending nothing changes; a read changes only what the host reads; a placed byte
changes only that byte of BUF (the moves as a list, and readData, are the model's own: notes/assumptions/1.md, 4.md). -/
def Obligations.QuietMovesChangeNothingElse : Prop :=
  (∀ s : State, s.host = [] → step s = .next s) ∧
  (∀ (s : State) (no : Nat) (rest : List HostMove), s.host = .read no :: rest →
    step s = .next { s with host := rest, readData := hostRead no s }) ∧
  (∀ (s : State) (off : Word) (v : Byte) (rest : List HostMove), Memory.wf s.buf = true →
    s.host = .place off v :: rest →
    ∃ m, step s = .next { s with host := rest, buf := m } ∧ Memory.read m off.toNat = v ∧
      ∀ a, a ≠ off.toNat → Memory.read m a = Memory.read s.buf a)

/-- Rules R25 and R44: what a host read returns, for every register number. -/
def Obligations.HostReadsByNumber : Prop :=
  ∀ s : State,
    hostRead 0x00 s = 0#1024 ∧ hostRead 0x01 s = s.status.setWidth 1024 ∧ hostRead 0x02 s = s.err0.setWidth 1024 ∧
    hostRead 0x03 s = s.err1.setWidth 1024 ∧ hostRead 0x04 s = (flagsWord s).setWidth 1024 ∧
    hostRead 0x08 s = 0#1024 ∧ hostRead 0x09 s = s.blkin.setWidth 1024 ∧ hostRead 0x0A s = s.blkout.setWidth 1024 ∧
    hostRead 0x0B s = s.dgiv.setWidth 1024 ∧ hostRead 0x0C s = s.dgconst.setWidth 1024 ∧
    hostRead 0x0D s = s.dgout.setWidth 1024 ∧ hostRead 0x10 s = s.buflen.setWidth 1024 ∧
    hostRead 0x11 s = s.maxdesc.setWidth 1024 ∧ hostRead 0x12 s = s.ftype.setWidth 1024 ∧
    hostRead 0x18 s = s.hdrMagic.setWidth 1024 ∧ hostRead 0x19 s = s.hdrSize.setWidth 1024 ∧
    hostRead 0x1A s = s.hdrCrc.setWidth 1024 ∧ hostRead 0x1B s = s.hdrVersion.setWidth 1024 ∧
    hostRead 0x1C s = s.hdrFirst.setWidth 1024 ∧ hostRead 0x1D s = s.hdrVstr ∧
    hostRead 0x20 s = s.descType.setWidth 1024 ∧ hostRead 0x21 s = s.descPayoff.setWidth 1024 ∧
    hostRead 0x22 s = s.descPaysize.setWidth 1024 ∧
    ∀ no, no ∉ [0x00, 0x01, 0x02, 0x03, 0x04, 0x08, 0x09, 0x0A, 0x0B, 0x0C, 0x0D, 0x10, 0x11, 0x12,
      0x18, 0x19, 0x1A, 0x1B, 0x1C, 0x1D, 0x20, 0x21, 0x22] → hostRead no s = 0#1024

/-- Rule R29: the bits of FLAGS. -/
def Obligations.FlagsWordBits : Prop :=
  ∀ (s : State) (i : Nat), (flagsWord s).getLsbD i =
    (if i = 0 then s.rkv else if i = 1 then s.dgact else if i = 2 then s.holdv else if i = 3 then s.hdrv
      else if i = 4 then s.wact else if i = 5 then s.wfirst else if i = 6 then s.aborted else false)

/-- Rule R44: writes of RO registers and of numbers outside the map are ignored, a wide value is truncated, and operand
writes are performed whatever ABORTED is; in every state a read of a WO register or of a number outside the map gives 0. -/
def Obligations.HostAccessCornerCases : Prop :=
  (∀ (s : State) (no v : Nat) (rest : List HostMove), s.host = .write no v :: rest →
    (no ∉ [0x00, 0x08, 0x09, 0x0B, 0x0C, 0x10, 0x11, 0x12] → step s = .next { s with host := rest }) ∧
    (no = 0x08 → step s = .next { s with host := rest, keyin := BitVec.ofNat 128 v }) ∧
    (no = 0x09 → step s = .next { s with host := rest, blkin := BitVec.ofNat 64 v }) ∧
    (no = 0x0B → step s = .next { s with host := rest, dgiv := BitVec.ofNat 64 v }) ∧
    (no = 0x0C → step s = .next { s with host := rest, dgconst := BitVec.ofNat 128 v }) ∧
    (no = 0x10 → step s = .next { s with host := rest, buflen := BitVec.ofNat 32 v, hdrv := false, wact := false }) ∧
    (no = 0x11 → step s = .next { s with host := rest, maxdesc := BitVec.ofNat 32 v }) ∧
    (no = 0x12 → step s = .next { s with host := rest, ftype := BitVec.ofNat 128 v })) ∧
  (∀ (s : State) (no : Nat),
    (no ∈ [0x00, 0x08] ∨ no ∉ [0x00, 0x01, 0x02, 0x03, 0x04, 0x08, 0x09, 0x0A, 0x0B, 0x0C, 0x0D, 0x10, 0x11, 0x12,
      0x18, 0x19, 0x1A, 0x1B, 0x1C, 0x1D, 0x20, 0x21, 0x22]) →
    hostRead no s = 0#1024 ∧
    ∀ rest, s.host = .read no :: rest → step s = .next { s with host := rest, readData := 0#1024 })

/-- Rule R33: a host write of BUFLEN, with any value including the one it already holds, clears HDRV and WACT; a byte
can be read exactly at the offsets below BUFLEN. That a read outside has no value is the model's choice
(notes/assumptions/11.md): rule R52 does not define it. -/
def Obligations.BuflenWriteEndsHeaderAndWalk : Prop :=
  (∀ (s : State) (v : Nat) (rest : List HostMove), s.host = .write 0x10 v :: rest →
    step s = .next { s with host := rest, buflen := BitVec.ofNat 32 v, hdrv := false, wact := false }) ∧
  (∀ (s : State) (off : Nat), (memRead s off 1).isSome = true ↔ off < s.buflen.toNat)

/-- Rule R46: the state after reset, without the registers whose value the rule leaves unspecified. -/
def Obligations.ResetStateValues : Prop :=
  State.reset.status = 0 ∧ State.reset.err0 = 0 ∧ State.reset.err1 = 0 ∧ State.reset.rkv = false ∧
  State.reset.dgact = false ∧ State.reset.holdv = false ∧ State.reset.hdrv = false ∧ State.reset.wact = false ∧
  State.reset.wfirst = false ∧ State.reset.aborted = false ∧ State.reset.keyin = 0 ∧ State.reset.blkin = 0 ∧
  State.reset.blkout = 0 ∧ State.reset.dgiv = 0 ∧ State.reset.dgout = 0 ∧ State.reset.dgconst = 0 ∧
  State.reset.ftype = 0 ∧ State.reset.buflen = 0 ∧ State.reset.maxdesc = 32 ∧ State.reset.hdrMagic = 0 ∧
  State.reset.hdrSize = 0 ∧ State.reset.hdrCrc = 0 ∧ State.reset.hdrVersion = 0 ∧ State.reset.hdrFirst = 0 ∧
  State.reset.hdrVstr = 0 ∧ State.reset.descType = 0 ∧ State.reset.descPayoff = 0 ∧ State.reset.descPaysize = 0

/-- Rule R210: reset in any state, ABORTED included, gives rule R46's values and does not touch BUF; nothing but reset
clears ABORTED or RKV. The registers left unspecified are not spoken of. -/
def Obligations.ResetMoveEffect : Prop :=
  (∀ s : State, resets s → ∃ t, step s = .next t ∧
    t.status = 0 ∧ t.err0 = 0 ∧ t.err1 = 0 ∧ t.rkv = false ∧ t.dgact = false ∧ t.holdv = false ∧ t.hdrv = false ∧
    t.wact = false ∧ t.wfirst = false ∧ t.aborted = false ∧ t.keyin = 0 ∧ t.blkin = 0 ∧ t.blkout = 0 ∧ t.dgiv = 0 ∧
    t.dgout = 0 ∧ t.dgconst = 0 ∧ t.ftype = 0 ∧ t.buflen = 0 ∧ t.maxdesc = 32 ∧ t.hdrMagic = 0 ∧ t.hdrSize = 0 ∧
    t.hdrCrc = 0 ∧ t.hdrVersion = 0 ∧ t.hdrFirst = 0 ∧ t.hdrVstr = 0 ∧ t.descType = 0 ∧ t.descPayoff = 0 ∧
    t.descPaysize = 0 ∧ t.buf = s.buf) ∧
  (∀ s t : State, step s = .next t →
    (s.aborted = true → t.aborted = false → resets s) ∧ (s.rkv = true → t.rkv = false → resets s))

/-- Rule R24, columns "set to 1 by" and "cleared to 0 by": every change of a flag has one of the listed events. -/
def Obligations.FlagsChangeOnlyByTheirEvents : Prop :=
  ∀ s t : State, step s = .next t →
    (s.rkv = false → t.rkv = true → issues s .keyexp80 ∨ issues s .keyexp128) ∧
    (s.rkv = true → t.rkv = false → resets s) ∧
    (s.dgact = false → t.dgact = true → issues s .dgInit) ∧
    (s.dgact = true → t.dgact = false → issues s .dgFinal ∨ resets s) ∧
    (s.holdv = false → t.holdv = true → issues s .dgBlock) ∧
    (s.holdv = true → t.holdv = false →
      issues s .dgBlock ∨ issues s .dgInit ∨ issues s .dgFinal ∨ resets s) ∧
    (s.hdrv = false → t.hdrv = true → issues s .pdsValidate ∧ t.status = 0#32) ∧
    (s.hdrv = true → t.hdrv = false → issues s .pdsValidate ∨ writesBuflen s ∨ resets s) ∧
    (s.wact = false → t.wact = true → issues s .walkStart) ∧
    (s.wact = true → t.wact = false → (issues s .walkNext ∧ t.status ≠ 0#32) ∨ issues s .walkStop ∨
      issues s .pdsValidate ∨ writesBuflen s ∨ resets s) ∧
    (s.wfirst = false → t.wfirst = true → issues s .walkStart) ∧
    (s.wfirst = true → t.wfirst = false → (issues s .walkNext ∧ t.status = 0#32) ∨ resets s) ∧
    (s.aborted = false → t.aborted = true → issues s .dgBuf ∧ s.buflen.toNat % 8 ≠ 0) ∧
    (s.aborted = true → t.aborted = false → resets s)

/-- Rule R186: when CORE aborts and what that writes; that every command is then ignored, host reads and operand writes
work as before, and only reset clears ABORTED. -/
def Obligations.AbortIsSticky : Prop :=
  (∀ s : State, s.aborted = false → s.buflen.toNat % 8 ≠ 0 →
    exec .dgBuf s = .next { s with aborted := true, status := 0xFF#32, err0 := 0#32, err1 := 0#32 }) ∧
  (∀ (s : State) (v : Nat) (rest : List HostMove), s.aborted = true → s.host = .write 0x00 v :: rest →
    step s = .next { s with host := rest }) ∧
  (∀ (s : State) (no v : Nat) (rest : List HostMove), s.aborted = true → no ≠ 0x00 → s.host = .write no v :: rest →
    ∃ t, step { s with aborted := false } = .next t ∧ step s = .next { t with aborted := true }) ∧
  (∀ (s : State) (no : Nat) (rest : List HostMove), s.aborted = true → s.host = .read no :: rest →
    step s = .next { s with host := rest, readData := hostRead no s }) ∧
  (∀ s t : State, s.aborted = true → step s = .next t → t.aborted = false → resets s)

/-- Rules R57, R185, R222: every command ends, in every state; no step leaves the buffer or stops. -/
def Obligations.StepAlwaysCompletes : Prop :=
  (∀ s : State, ∃ t, step s = .next t) ∧ (∀ (i : Instr) (s : State), ∃ t, exec i s = .next t)

/-- Rules R47, R27, R181: the invariant of the state is kept by every step. -/
def Obligations.StepKeepsInvariant : Prop :=
  ∀ s t : State, s.Inv → step s = .next t → t.Inv

/-- The invariant holds after reset. -/
def Obligations.InvariantHoldsAtReset : Prop :=
  State.reset.Inv ∧ State.reset.HeaderInv ∧ State.reset.WalkBound

/-- Rules R24, R33, R36, R152: while HDRV = 1 the header registers hold a header accepted for the current BUFLEN. -/
def Obligations.StepKeepsAcceptedHeader : Prop :=
  ∀ s t : State, s.HeaderInv → step s = .next t → t.HeaderInv

/-- Rule R170: an enumeration visits strictly increasing offsets inside the buffer, so it yields at most
min(cap, BUFLEN) descriptors: with State.Inv, WCNT <= WMAX and WCNT + 32 <= BUFLEN after every yield. -/
def Obligations.StepKeepsWalkBound : Prop :=
  ∀ s t : State, s.Inv → s.WalkBound → step s = .next t → t.WalkBound

/-- Rule R45 (and rule R25, column "written by CORE in"): what every command leaves unchanged. BLKIN, DGIV, DGCONST,
BUFLEN, MAXDESC, FTYPE and BUF are written by none. -/
def Obligations.CommandFrame : Prop :=
  ∀ (i : Instr) (s t : State), exec i s = .next t →
    (i ∉ [Instr.keyexp80, .keyexp128, .scramble, .unscramble] → t.keyin = s.keyin) ∧
    (i ∉ [Instr.enc, .dec, .scramble, .unscramble] → t.blkout = s.blkout) ∧
    (i ∉ [Instr.keyexp80, .keyexp128] → t.rk = s.rk ∧ t.rkv = s.rkv) ∧
    (i ∉ [Instr.dgFinal, .dgBuf] → t.dgout = s.dgout) ∧
    (i ∉ [Instr.dgInit, .dgBlock, .dgFinal] → t.acc = s.acc ∧ t.hold = s.hold ∧ t.holdv = s.holdv) ∧
    (i ∉ [Instr.dgInit, .dgFinal] → t.dgact = s.dgact) ∧
    (i ≠ .pdsValidate → t.hdrMagic = s.hdrMagic ∧ t.hdrSize = s.hdrSize ∧ t.hdrCrc = s.hdrCrc ∧
      t.hdrVersion = s.hdrVersion ∧ t.hdrFirst = s.hdrFirst ∧ t.hdrVstr = s.hdrVstr ∧ t.hdrv = s.hdrv) ∧
    (i ∉ [Instr.walkStart, .walkNext] → t.wcur = s.wcur ∧ t.wprev = s.wprev ∧ t.wcnt = s.wcnt ∧ t.wmax = s.wmax ∧
      t.wfirst = s.wfirst) ∧
    (i ∉ [Instr.pdsValidate, .walkStart, .walkNext, .walkStop] → t.wact = s.wact) ∧
    (i ∉ [Instr.walkNext, .find] → t.descType = s.descType ∧ t.descPayoff = s.descPayoff ∧
      t.descPaysize = s.descPaysize) ∧
    (i ≠ .dgBuf → t.aborted = s.aborted) ∧
    t.blkin = s.blkin ∧ t.dgiv = s.dgiv ∧ t.dgconst = s.dgconst ∧ t.buflen = s.buflen ∧ t.maxdesc = s.maxdesc ∧
    t.ftype = s.ftype ∧ t.host = s.host ∧ t.readData = s.readData ∧ ∀ a, bufByte t a = bufByte s a

/-- Rule R51: CORE never writes BUF; only a byte the host places changes it. -/
def Obligations.CoreNeverWritesBuffer : Prop :=
  (∀ (i : Instr) (s t : State), exec i s = .next t → t.buf = s.buf) ∧
  (∀ s t : State, step s = .next t → t.buf ≠ s.buf → ∃ off v rest, s.host = .place off v :: rest)

/-- Rules R52, R53, R54, R77: MemRead and MemBytes inside the buffer, little-endian, a u64 being two u32s and a 16-byte
string having byte j in bits 8j+7:8j. That they have no value outside is the model's choice (notes/assumptions/11.md):
rule R52 does not define MemRead there. -/
def Obligations.MemReadLittleEndian : Prop :=
  ∀ (s : State) (off : Nat),
    (off + 1 ≤ s.buflen.toNat → memRead s off 1 = some (bufByte s off)) ∧
    (off + 4 ≤ s.buflen.toNat → memRead s off 4 = some (u32At s off)) ∧
    (off + 8 ≤ s.buflen.toNat → memRead s off 8 = some (u64At s off)) ∧
    (off + 16 ≤ s.buflen.toNat → (memBytes s off 16).map (leBits 128) = some (u128At s off)) ∧
    (∀ n, s.buflen.toNat < off + n → memRead s off n = none ∧ memBytes s off n = none) ∧
    (∀ n, off + n ≤ s.buflen.toNat → memBytes s off n = some (bytesAt s off n))

/-- Rules R100, R101: SBOX_INV is the inverse function of SBOX (the entries are the spec's from general knowledge, G1). -/
def Obligations.SboxInverse : Prop :=
  ∀ x : BitVec 4, sboxInv (sbox x) = x ∧ sbox (sboxInv x) = x

/-- Rule R104: the substitution layer works nibble by nibble; with the rule's examples. -/
def Obligations.SubLayerNibbleByNibble : Prop :=
  (∀ (s : Block) (n : Nat), n < 16 →
    nib (subLayer s) n = sbox (nib s n) ∧ nib (invSubLayer s) n = sboxInv (nib s n)) ∧
  subLayer 0x0000000000000000#64 = 0xCCCCCCCCCCCCCCCC#64 ∧ subLayer 0x0123456789ABCDEF#64 = 0xC56B90AD3EF84712#64 ∧
  invSubLayer 0xC56B90AD3EF84712#64 = 0x0123456789ABCDEF#64 ∧
  permLayer 0x000000000000FFFF#64 = 0x000F000F000F000F#64 ∧ permLayer 0x0123456789ABCDEF#64 = 0x00FF0F0F33335555#64

/-- Rules R102, R103: bit i moves to P(i), bit b of nibble n to 16b + n, and the inverse layer moves it back (the
positions are the spec's from general knowledge, G2). -/
def Obligations.PermLayerMovesBits : Prop :=
  (∀ (s : Block) (i : Nat), i < 63 → (permLayer s).getLsbD (16 * i % 63) = s.getLsbD i) ∧
  (∀ s : Block, (permLayer s).getLsbD 63 = s.getLsbD 63) ∧
  (∀ (s : Block) (n b : Nat), n < 16 → b < 4 → (permLayer s).getLsbD (16 * b + n) = s.getLsbD (4 * n + b)) ∧
  (∀ (t : Block) (i : Nat), i < 63 → (invPermLayer t).getLsbD i = t.getLsbD (16 * i % 63)) ∧
  (∀ t : Block, (invPermLayer t).getLsbD 63 = t.getLsbD 63)

/-- Rule R105 (rotation amount from general knowledge, G3): the 80-bit schedule, as the sequence of its key states. -/
def Obligations.Expand80KeyStates : Prop :=
  ∀ K : BitVec 80, ∃ k : Nat → BitVec 80, k 0 = K ∧
    (∀ (i : Nat) (h : i < 32), (expand80 K)[i] = (k i).extractLsb' 16 64) ∧
    (∀ i, i < 31 → ∀ r : BitVec 80, r = (k i).extractLsb' 0 19 ++ (k i).extractLsb' 19 61 →
      (k (i + 1)).extractLsb' 76 4 = sbox (r.extractLsb' 76 4) ∧
      (k (i + 1)).extractLsb' 20 56 = r.extractLsb' 20 56 ∧
      (k (i + 1)).extractLsb' 15 5 = r.extractLsb' 15 5 ^^^ BitVec.ofNat 5 (i + 1) ∧
      (k (i + 1)).extractLsb' 0 15 = r.extractLsb' 0 15)

/-- Rule R106: the 128-bit schedule, as the sequence of its key states: rotated by 61 to (k[66:0] || k[127:67]), the two
top nibbles substituted independently, the counter in bits 66:62. -/
def Obligations.Expand128KeyStates : Prop :=
  ∀ K : Quad, ∃ k : Nat → Quad, k 0 = K ∧
    (∀ (i : Nat) (h : i < 32), (expand128 K)[i] = (k i).extractLsb' 64 64) ∧
    (∀ i, i < 31 → ∀ r : Quad, r = (k i).extractLsb' 0 67 ++ (k i).extractLsb' 67 61 →
      (k (i + 1)).extractLsb' 124 4 = sbox (r.extractLsb' 124 4) ∧
      (k (i + 1)).extractLsb' 120 4 = sbox (r.extractLsb' 120 4) ∧
      (k (i + 1)).extractLsb' 67 53 = r.extractLsb' 67 53 ∧
      (k (i + 1)).extractLsb' 62 5 = r.extractLsb' 62 5 ^^^ BitVec.ofNat 5 (i + 1) ∧
      (k (i + 1)).extractLsb' 0 62 = r.extractLsb' 0 62)

/-- Rule R108: Enc whitens with round key 0 and then runs rounds 1 to 31. -/
def Obligations.EncRounds : Prop :=
  ∀ (rk : Vector Block 32) (b : Block), ∃ s : Nat → Block, s 0 = b ^^^ rk[0] ∧
    (∀ (i : Nat) (h : i < 32), 1 ≤ i → s i = permLayer (subLayer (s (i - 1))) ^^^ rk[i]) ∧ encBlock rk b = s 31

/-- Rule R109: Dec runs rounds 31 down to 1 and then XORs round key 0. -/
def Obligations.DecRounds : Prop :=
  ∀ (rk : Vector Block 32) (c : Block), ∃ s : Nat → Block, s 31 = c ∧
    (∀ (i : Nat) (h : i < 32), 1 ≤ i → s (i - 1) = invSubLayer (invPermLayer (s i ^^^ rk[i]))) ∧
    decBlock rk c = s 0 ^^^ rk[0]

/-- Rule R109: for every rk and every b, Dec(rk, Enc(rk, b)) = b and Enc(rk, Dec(rk, b)) = b, and so ENC then DEC gives
the block back (rule R114). -/
def Obligations.DecryptionInvertsEncryption : Prop :=
  (∀ (rk : Vector Block 32) (b : Block), decBlock rk (encBlock rk b) = b ∧ encBlock rk (decBlock rk b) = b) ∧
  (∀ s t : State, s.aborted = false → s.rkv = true → exec .enc s = .next t →
    ∃ u, exec .dec { t with blkin := t.blkout } = .next u ∧ u.blkout = s.blkin)

/-- Rule R110: KEYEXP80 on KEYIN[79:0]; nothing else changes. -/
def Obligations.Keyexp80Result : Prop :=
  ∀ s : State, s.aborted = false →
    exec .keyexp80 s = .next { s with
      rk := expand80 (s.keyin.extractLsb' 0 80), rkv := true, keyin := 0#128,
      status := 0x00#32, err0 := 0#32, err1 := 0#32 }

/-- Rule R111: KEYEXP128 on KEYIN; nothing else changes. -/
def Obligations.Keyexp128Result : Prop :=
  ∀ s : State, s.aborted = false →
    exec .keyexp128 s = .next { s with
      rk := expand128 s.keyin, rkv := true, keyin := 0#128,
      status := 0x00#32, err0 := 0#32, err1 := 0#32 }

/-- Rules R113, R114: ENC and DEC under the loaded schedule; nothing else changes. -/
def Obligations.EncDecResult : Prop :=
  ∀ s : State, s.aborted = false → s.rkv = true →
    exec .enc s = .next { s with blkout := encBlock s.rk s.blkin, status := 0x00#32, err0 := 0#32, err1 := 0#32 } ∧
    exec .dec s = .next { s with blkout := decBlock s.rk s.blkin, status := 0x00#32, err0 := 0#32, err1 := 0#32 }

/-- Rule R112: with RKV = 0 ENC and DEC end with NoKey (0x20) and write nothing else. -/
def Obligations.EncDecNeedSchedule : Prop :=
  ∀ s : State, s.aborted = false → s.rkv = false →
    exec .enc s = .next (ends 0x20#32 0#32 0#32 s) ∧ exec .dec s = .next (ends 0x20#32 0#32 0#32 s)

/-- Rule R217: the key register is consumed, and a second key operation without a new key runs with the zero key. -/
def Obligations.KeyIsConsumed : Prop :=
  ∀ (i j : Instr) (s t u : State), i ∈ [Instr.keyexp80, .keyexp128, .scramble, .unscramble] →
    j ∈ [Instr.keyexp80, .keyexp128, .scramble, .unscramble] → s.aborted = false →
    exec i s = .next t → exec j t = .next u →
    t.keyin = 0#128 ∧ u.status = 0#32 ∧
    (j = .keyexp80 → u.rk = expand80 0#80) ∧ (j = .keyexp128 → u.rk = expand128 0#128) ∧
    (j = .scramble → u.blkout = encBlock (expand128 0#128) t.blkin) ∧
    (j = .unscramble → u.blkout = decBlock (expand128 0#128) t.blkin)

/-- Rules R140, R141: SCRAMBLE and UNSCRAMBLE under the key in KEYIN; RK, RKV and all else unchanged. -/
def Obligations.ScrambleResult : Prop :=
  ∀ s : State, s.aborted = false →
    exec .scramble s = .next { s with
      blkout := encBlock (expand128 s.keyin) s.blkin, keyin := 0#128,
      status := 0x00#32, err0 := 0#32, err1 := 0#32 } ∧
    exec .unscramble s = .next { s with
      blkout := decBlock (expand128 s.keyin) s.blkin, keyin := 0#128,
      status := 0x00#32, err0 := 0#32, err1 := 0#32 }

/-- Rules R140, R141 (corner cases): SCRAMBLE gives the BLKOUT of KEYEXP128 followed by ENC; UNSCRAMBLE with the same
key written again gives the block back. -/
def Obligations.UnscrambleInvertsScramble : Prop :=
  ∀ s t : State, s.aborted = false → exec .scramble s = .next t →
    (∃ u v, exec .keyexp128 s = .next u ∧ exec .enc u = .next v ∧ t.blkout = v.blkout) ∧
    (∃ w, exec .unscramble { t with keyin := s.keyin, blkin := t.blkout } = .next w ∧ w.blkout = s.blkin)

/-- Rule R121: first in the low 64 bits, second in the high 64 bits; in byte form the 8 bytes of first, then those of
second. -/
def Obligations.PairKeyHalves : Prop :=
  (∀ a b : Block, (pairKey a b).extractLsb' 0 64 = a ∧ (pairKey a b).extractLsb' 64 64 = b) ∧
  (∀ x y : List Byte, x.length = 8 → y.length = 8 →
    keyOfBytes (x ++ y) = pairKey (blockOfBytes x) (blockOfBytes y))

/-- Rules R122, R123: the digest's accumulator, compression by compression. -/
def Obligations.DigestCompressions : Prop :=
  ∀ (w : List Block) (iv : Block) (c : Quad), ∃ acc : Nat → Block, acc 0 = iv ∧
    (∀ (j : Nat) (h : 2 * j + 1 < w.length),
      acc (j + 1) = acc j ^^^ encBlock (expand128 (w[2 * j + 1] ++ w[2 * j])) (acc j)) ∧
    (w.length % 2 = 0 → digest w iv c = compress (acc (w.length / 2)) c) ∧
    (∀ h : w.length % 2 = 1, digest w iv c =
      compress (compress (acc (w.length / 2)) (w[w.length - 1] ++ w[w.length - 1])) c) ∧
    ∀ a : Block, compress a c = a ^^^ encBlock (expand128 c) a

/-- Rule R124: DG_INIT, whatever digest was in progress. -/
def Obligations.DgInitResult : Prop :=
  ∀ s : State, s.aborted = false →
    exec .dgInit s = .next { s with
      acc := s.dgiv, hold := 0#64, holdv := false, dgact := true,
      status := 0x00#32, err0 := 0#32, err1 := 0#32 }

/-- Rule R125: DG_BLOCK holds the first block of a pair and compresses at the second, the held block low. -/
def Obligations.DgBlockResult : Prop :=
  ∀ s : State, s.aborted = false → s.dgact = true →
    (s.holdv = false → exec .dgBlock s = .next { s with
      hold := s.blkin, holdv := true,
      status := 0x00#32, err0 := 0#32, err1 := 0#32 }) ∧
    (s.holdv = true → exec .dgBlock s = .next { s with
      acc := compress s.acc (s.blkin ++ s.hold), hold := 0#64, holdv := false,
      status := 0x00#32, err0 := 0#32, err1 := 0#32 })

/-- Rule R126: DG_FINAL self-pairs a held block, finalises with DGCONST and clears the context. -/
def Obligations.DgFinalResult : Prop :=
  ∀ s : State, s.aborted = false → s.dgact = true →
    (s.holdv = false → exec .dgFinal s = .next { s with
      dgout := compress s.acc s.dgconst,
      acc := 0#64, hold := 0#64, holdv := false, dgact := false, status := 0x00#32, err0 := 0#32, err1 := 0#32 }) ∧
    (s.holdv = true → exec .dgFinal s = .next { s with
      dgout := compress (compress s.acc (s.hold ++ s.hold)) s.dgconst,
      acc := 0#64, hold := 0#64, holdv := false, dgact := false, status := 0x00#32, err0 := 0#32, err1 := 0#32 })

/-- Rule R127: with DGACT = 0 DG_BLOCK and DG_FINAL end with NoDigest (0x21) and write nothing else. -/
def Obligations.DigestNeedsInit : Prop :=
  ∀ s : State, s.aborted = false → s.dgact = false →
    exec .dgBlock s = .next (ends 0x21#32 0#32 0#32 s) ∧ exec .dgFinal s = .next (ends 0x21#32 0#32 0#32 s)

/-- Rules R65, R128: DG_BUF digests the BUFLEN / 8 little-endian blocks of the buffer; nothing else changes. -/
def Obligations.DgBufResult : Prop :=
  ∀ s : State, s.aborted = false → s.buflen.toNat % 8 = 0 →
    exec .dgBuf s = .next { s with
      dgout := digest ((List.range (s.buflen.toNat / 8)).map fun j => u64At s (8 * j)) s.dgiv s.dgconst,
      status := 0x00#32, err0 := 0#32, err1 := 0#32 }

/-- Rule R129: the streaming host sequence leaves DGOUT = Digest(w, iv, c), and DG_BUF over the little-endian bytes of
the same blocks leaves the same DGOUT. -/
def Obligations.StreamingEqualsWholeBuffer : Prop :=
  ∀ (w : List Block) (iv : Block) (c : Quad) (s : State), s.aborted = false →
    ∃ t, runMoves (apiDigestStream w iv c) s = .next t ∧ t.dgout = digest w iv c ∧ t.status = 0x00#32 ∧
      ∀ u : State, u.aborted = false → u.dgiv = iv → u.dgconst = c → u.buflen.toNat = 8 * w.length →
        (∀ (j : Nat) (h : j < w.length), u64At u (8 * j) = w[j]) →
        ∃ v, exec .dgBuf u = .next v ∧ v.dgout = t.dgout ∧ v.status = 0x00#32

/-- Rules R150, R154: two byte strings that differ in one byte have different CRCs (the property is the spec's from
general knowledge, G5); leading zero bytes do not change the value. -/
def Obligations.CrcDetectsByteChange : Prop :=
  (∀ (x y : List Byte) (b b' : Byte), b ≠ b' → crc (x ++ b :: y) ≠ crc (x ++ b' :: y)) ∧
  (∀ y : List Byte, crc (0#8 :: y) = crc y) ∧ crc [] = 0#32 ∧
  (∀ (x : List Byte) (b : Byte), crc (x ++ [b]) = crcRounds 8 (crc x ^^^ (b.setWidth 32 <<< 24))) ∧
  (∀ c : Word, crcRounds 0 c = c) ∧
  (∀ (n : Nat) (c : Word),
    crcRounds (n + 1) c = crcRounds n (if c.getLsbD 31 then c <<< 1 ^^^ 0x04C11DB7#32 else c <<< 1))

/-- Rule R152: every outcome of PDS_VALIDATE, in the order of its checks; nothing not named changes. -/
def Obligations.ValidateOutcome : Prop :=
  ∀ s : State, s.aborted = false → ∀ z : State, z = { s with hdrv := false, wact := false } →
    exec .pdsValidate s = .next (
      if s.buflen.toNat < 148 then ends 0x01#32 0#32 0#32 z
      else if u32At s 0 ≠ 0x50445331#32 then ends 0x02#32 (u32At s 0) 0x50445331#32 z
      else if u32At s 12 = 0#32 then ends 0x03#32 (u32At s 12) 1#32 z
      else if (u32At s 4).toNat < 148 then ends 0x04#32 (u32At s 4) 148#32 z
      else if (u32At s 4).toNat > s.buflen.toNat then ends 0x01#32 0#32 0#32 z
      else if crc (bytesAt s 12 ((u32At s 4).toNat - 12)) ≠ u32At s 8 then
        ends 0x05#32 (u32At s 8) (crc (bytesAt s 12 ((u32At s 4).toNat - 12))) z
      else ends 0x00#32 0#32 0#32 { z with
        hdrMagic := 0x50445331#32, hdrSize := u32At s 4, hdrCrc := u32At s 8, hdrVersion := u32At s 12,
        hdrFirst := u32At s 16, hdrVstr := leBits 1024 (bytesAt s 20 128), hdrv := true })

/-- Rule R154: changing any single byte of the range the CRC covers of a valid header yields InvalidCrc, unless the
change makes version 0. It rests on the property of Crc that the spec takes from general knowledge (G5,
notes/assumptions/7.md). -/
def Obligations.CorruptedHeaderIsRejected : Prop :=
  ∀ (s t : State) (off : Word) (v : Byte), Memory.wf s.buf = true → s.aborted = false →
    exec .pdsValidate s = .next t → t.status = 0x00#32 → 12 ≤ off.toNat → off.toNat < t.hdrSize.toNat →
    v ≠ bufByte s off.toNat → u32At (placeByte off v s) 12 ≠ 0#32 →
    ∃ u, exec .pdsValidate (placeByte off v s) = .next u ∧ u.status = 0x05#32 ∧ u.hdrv = false

/-- Rule R162: WALK_START with a validated header; nothing else changes. -/
def Obligations.WalkStartResult : Prop :=
  ∀ s : State, s.aborted = false → s.hdrv = true →
    exec .walkStart s = .next { s with
      wcur := s.hdrFirst, wprev := 0#32, wcnt := 0#32, wfirst := true,
      wmax := s.maxdesc, wact := true, status := 0x00#32, err0 := 0#32, err1 := 0#32 }

/-- Rule R166: the refusals NoWalk (0x23) and NoHeader (0x22) write nothing else; and WCNT is never above WMAX in a
walk, given that it was not before. -/
def Obligations.WalkSequencingRefusals : Prop :=
  (∀ s : State, s.aborted = false → s.wact = false →
    exec .walkNext s = .next (ends 0x23#32 0#32 0#32 s) ∧ exec .walkStop s = .next (ends 0x23#32 0#32 0#32 s)) ∧
  (∀ s : State, s.aborted = false → s.hdrv = false →
    exec .walkStart s = .next (ends 0x22#32 0#32 0#32 s) ∧ exec .find s = .next (ends 0x22#32 0#32 0#32 s)) ∧
  (∀ s t : State, s.aborted = false → s.hdrv = true → exec .walkStart s = .next t → t.wcnt = 0#32) ∧
  (∀ s t : State, s.aborted = false → s.wact = true → s.wcnt.toNat ≤ s.wmax.toNat → exec .walkNext s = .next t →
    t.wcnt.toNat = s.wcnt.toNat + (if t.status = 0#32 then 1 else 0) ∧ t.wcnt.toNat ≤ t.wmax.toNat)

/-- Rule R164: DescCheck's five steps, the first failing one winning, in integers; otherwise the tuple. -/
def Obligations.DescCheckSteps : Prop :=
  ∀ (s : State) (cur prev : Word) (cnt : Nat) (first : Bool) (cap : Nat), cur ≠ 0#32 →
    descCheck s cur prev cnt first cap = some (
      if cnt ≥ cap then .error .maxDescriptorsExceeded 0#32 0#32
      else if first = false ∧ cur.toNat ≤ prev.toNat then .error .descriptorLoop cur 0#32
      else if cur.toNat + 32 > s.buflen.toNat then .error .descriptorOutOfBounds cur 0#32
      else if (u32At s cur.toNat).toNat < 32 then .error .invalidDescriptorHeaderSize (u32At s cur.toNat) 32#32
      else if (u32At s (cur.toNat + 4)).toNat + (u32At s (cur.toNat + 8)).toNat > s.buflen.toNat then
        .error .payloadOutOfBounds (u32At s (cur.toNat + 4)) (u32At s (cur.toNat + 8))
      else .view (u128At s (cur.toNat + 16)) (u32At s (cur.toNat + 4)) (u32At s (cur.toNat + 8))
        (u32At s (cur.toNat + 12)))

/-- Rule R163: WALK_NEXT yields when every check passes; nothing not named changes. -/
def Obligations.WalkNextYields : Prop :=
  ∀ s : State, s.aborted = false → s.wact = true → s.wcur ≠ 0#32 → s.wcnt.toNat < s.wmax.toNat →
    (s.wfirst = true ∨ s.wprev.toNat < s.wcur.toNat) → s.wcur.toNat + 32 ≤ s.buflen.toNat →
    32 ≤ (u32At s s.wcur.toNat).toNat →
    (u32At s (s.wcur.toNat + 4)).toNat + (u32At s (s.wcur.toNat + 8)).toNat ≤ s.buflen.toNat →
    exec .walkNext s = .next { s with
      descType := u128At s (s.wcur.toNat + 16), descPayoff := u32At s (s.wcur.toNat + 4),
      descPaysize := u32At s (s.wcur.toNat + 8), wprev := s.wcur, wcur := u32At s (s.wcur.toNat + 12),
      wcnt := s.wcnt + 1#32, wfirst := false, status := 0x00#32, err0 := 0#32, err1 := 0#32 }

/-- Rules R163, R164, R181: WALK_NEXT at the end of the chain and at each error, in the order of the checks; the walk
ends and nothing else changes. -/
def Obligations.WalkNextEnds : Prop :=
  ∀ s : State, s.aborted = false → s.wact = true → ∀ z : State, z = { s with wact := false } →
    (s.wcur = 0#32 → exec .walkNext s = .next (ends 0x10#32 0#32 0#32 z)) ∧
    (s.wcur ≠ 0#32 → s.wmax.toNat ≤ s.wcnt.toNat → exec .walkNext s = .next (ends 0x06#32 0#32 0#32 z)) ∧
    (s.wcur ≠ 0#32 → s.wcnt.toNat < s.wmax.toNat →
      (s.wfirst = false → s.wcur.toNat ≤ s.wprev.toNat → exec .walkNext s = .next (ends 0x07#32 s.wcur 0#32 z)) ∧
      (s.wfirst = true ∨ s.wprev.toNat < s.wcur.toNat →
        (s.buflen.toNat < s.wcur.toNat + 32 → exec .walkNext s = .next (ends 0x08#32 s.wcur 0#32 z)) ∧
        (s.wcur.toNat + 32 ≤ s.buflen.toNat →
          ((u32At s s.wcur.toNat).toNat < 32 →
            exec .walkNext s = .next (ends 0x09#32 (u32At s s.wcur.toNat) 32#32 z)) ∧
          (32 ≤ (u32At s s.wcur.toNat).toNat →
            s.buflen.toNat < (u32At s (s.wcur.toNat + 4)).toNat + (u32At s (s.wcur.toNat + 8)).toNat →
            exec .walkNext s = .next (ends 0x0A#32 (u32At s (s.wcur.toNat + 4)) (u32At s (s.wcur.toNat + 8)) z)))))

/-- Rule R170: after the first, a yielded descriptor lies strictly after the one before it, whatever data it
addresses. -/
def Obligations.WalkIsForwardOnly : Prop :=
  ∀ s t : State, s.aborted = false → s.wact = true → exec .walkNext s = .next t → t.status = 0x00#32 →
    t.wprev = s.wcur ∧ (s.wfirst = false → s.wprev.toNat < t.wprev.toNat) ∧ t.wprev.toNat + 32 ≤ t.buflen.toNat ∧
    t.descPayoff.toNat + t.descPaysize.toNat ≤ t.buflen.toNat

/-- Rule R167: WALK_STOP ends the enumeration; nothing else changes. -/
def Obligations.WalkStopResult : Prop :=
  ∀ s : State, s.aborted = false → s.wact = true →
    exec .walkStop s = .next { s with wact := false, status := 0x00#32, err0 := 0#32, err1 := 0#32 }

/-- Rule R168: FIND completes whenever a header is valid, writes nothing but STATUS, ERR0, ERR1 and on a match DESC_*,
and what it finds has the type asked for and a payload inside the buffer. -/
def Obligations.FindOutcome : Prop :=
  ∀ s : State, s.aborted = false → s.hdrv = true → ∃ t, exec .find s = .next t ∧
    t = { s with
      status := t.status, err0 := t.err0, err1 := t.err1,
      descType := t.descType, descPayoff := t.descPayoff, descPaysize := t.descPaysize } ∧
    t.status ∈ [0x00#32, 0x06#32, 0x07#32, 0x08#32, 0x09#32, 0x0A#32, 0x11#32] ∧
    (t.status ≠ 0x00#32 → t.descType = s.descType ∧ t.descPayoff = s.descPayoff ∧ t.descPaysize = s.descPaysize) ∧
    (t.status = 0x00#32 → t.err0 = 0#32 ∧ t.err1 = 0#32 ∧ t.descType = s.ftype ∧
      t.descPayoff.toNat + t.descPaysize.toNat ≤ s.buflen.toNat) ∧
    (t.status = 0x11#32 → t.err0 = 0#32 ∧ t.err1 = 0#32) ∧
    (s.hdrFirst = 0#32 → t.status = 0x11#32)

/-- Rule R168: FIND when the chain's first descriptor passes the checks and has the type asked for, and on an empty
chain; nothing not named changes. -/
def Obligations.FindResult : Prop :=
  ∀ s : State, s.aborted = false → s.hdrv = true →
    (s.hdrFirst ≠ 0#32 → s.hdrFirst.toNat + 32 ≤ s.buflen.toNat → 32 ≤ (u32At s s.hdrFirst.toNat).toNat →
      (u32At s (s.hdrFirst.toNat + 4)).toNat + (u32At s (s.hdrFirst.toNat + 8)).toNat ≤ s.buflen.toNat →
      u128At s (s.hdrFirst.toNat + 16) = s.ftype →
      exec .find s = .next { s with
        descType := s.ftype, descPayoff := u32At s (s.hdrFirst.toNat + 4),
        descPaysize := u32At s (s.hdrFirst.toNat + 8), status := 0x00#32, err0 := 0#32, err1 := 0#32 }) ∧
    (s.hdrFirst = 0#32 → exec .find s = .next (ends 0x11#32 0#32 0#32 s))

/-- Rules R168, R169: FIND gives what the host's for_each_descriptor (rule R83) with the default cap of 32 gives when its
visit stops at the first descriptor of the type asked for: the same view, NotFound for the end of the chain, or the same
error with the same details. -/
def Obligations.FindAgreesWithEnumeration : Prop :=
  ∀ s : State, s.aborted = false → s.hdrv = true → ∃ t e u,
    exec .find s = .next t ∧ apiForEach 32#32 (firstOf s.ftype) none s = .next (e, u) ∧
    (t.status = 0x00#32 → e = .ok (some ⟨t.descType, t.descPayoff, t.descPaysize⟩)) ∧
    (t.status = 0x11#32 → e = .ok none) ∧
    (t.status ≠ 0x00#32 → t.status ≠ 0x11#32 → e = .error t.status t.err0 t.err1)

/-- Rules R45, R142, R168, R220: the state in a blank cell of rule R45's table is not read by the operation (another
value there changes nothing else in the outcome) and not written by it (take x to be s); and while ABORTED = 0 no
operation reads STATUS, ERR0 or ERR1. -/
def Obligations.UnreadOperandsDoNotMatter : Prop :=
  (∀ (i : Instr) (c : Column) (s t x : State), c ∉ touches i → exec i s = .next t →
    exec i (c.copy x s) = .next (c.copy x t)) ∧
  (∀ (i : Instr) (s : State) (a b d : Word), s.aborted = false →
    exec i { s with status := a, err0 := b, err1 := d } = exec i s)

/-- Rule R212 (U7): values of internal registers whose validity flag is 0 are unobservable: two states that differ only
in them take the same step, observably, and still differ only in them. So the reset values the model names for them
(notes/assumptions/5.md) decide nothing. -/
def Obligations.UnspecifiedValuesUnobservable : Prop :=
  ∀ s t : State, SameObservables s t →
    ∃ s' t', step s = .next s' ∧ step t = .next t' ∧ SameObservables s' t'

/-- Rules R30, R200: KEYIN, RK, ACC, HOLD and the walker's registers do not affect what any host read returns. -/
def Obligations.SecretsAreNotReadable : Prop :=
  ∀ (s : State) (no : Nat) (k : Quad) (rk : Vector Block 32) (a b : Block) (p q r x : Word) (rest : List HostMove),
    s.host = .read no :: rest →
    ∃ t u, step s = .next t ∧
      step { s with keyin := k, rk := rk, acc := a, hold := b, wcur := p, wprev := q, wcnt := r, wmax := x } =
        .next u ∧ u.readData = t.readData
end

