-- ==== Sys2Proof/Laws/Bits.lean ====
section
/-! SUPPORT. What a bit vector given bit by bit and a byte sequence's register value are. -/

namespace Sys2Proof.Machine

theorem getLsbD_bitsOf (n : Nat) (f : Nat → Bool) (i : Nat) : (bitsOf n f).getLsbD i = (decide (i < n) && f i) := by
  induction n with
  | zero => simp
  | succ n ih =>
    rw [bitsOf, BitVec.getLsbD_cons, ih]
    by_cases h : i = n
    · simp [h]
    · by_cases h' : i < n
      · simp [h, h', Nat.lt_succ_of_lt h']
      · have : ¬ i < n + 1 := by omega
        simp [h, h', this]

theorem getLsbD_nib {w : Nat} (v : BitVec w) (n i : Nat) :
    (nib v n).getLsbD i = (decide (i < 4) && v.getLsbD (4 * n + i)) := by
  simp [nib, BitVec.getLsbD_extractLsb']

theorem leNat_lt (bs : List Byte) : leNat bs < 256 ^ bs.length := by
  induction bs with
  | nil => simp [leNat]
  | cons b bs ih =>
    have := b.isLt
    simp only [leNat, List.length_cons, Nat.pow_succ]
    omega

theorem leNat_append (x y : List Byte) : leNat (x ++ y) = leNat x + 256 ^ x.length * leNat y := by
  induction x with
  | nil => simp [leNat]
  | cons b x ih =>
    simp only [List.cons_append, leNat, ih, List.length_cons, Nat.pow_succ]
    ring

/-- The first byte is the least significant one (rules R52, R77). -/
theorem leBits_cons (w : Nat) (b : Byte) (bs : List Byte) : leBits (w + 8) (b :: bs) = leBits w bs ++ b := by
  apply BitVec.eq_of_toNat_eq
  have hb : b.toNat < 2 ^ 8 := b.isLt
  have h : (leNat bs % 2 ^ w) <<< 8 ||| b.toNat = leNat bs % 2 ^ w * 2 ^ 8 + b.toNat := by
    rw [Nat.shiftLeft_eq, Nat.mul_comm, Nat.two_pow_add_eq_or_of_lt hb]
  simp only [leBits, leNat, BitVec.toNat_ofNat, BitVec.toNat_append, h, Nat.pow_add]
  rw [Nat.mul_comm (2 ^ w), Nat.mod_mul]
  have h1 : (b.toNat + 256 * leNat bs) % 2 ^ 8 = b.toNat := by omega
  have h2 : (b.toNat + 256 * leNat bs) / 2 ^ 8 = leNat bs := by omega
  rw [h1, h2]
  ring

/-- The register value of two byte sequences in a row: the first is the low part. -/
theorem leBits_append (u v : Nat) (x y : List Byte) (hu : u = 8 * x.length) :
    leBits (v + u) (x ++ y) = leBits v y ++ leBits u x := by
  subst hu
  have hx : leNat x < 2 ^ (8 * x.length) := by
    have := leNat_lt x
    rwa [show (256 : Nat) = 2 ^ 8 from rfl, ← pow_mul] at this
  have h : (leNat y % 2 ^ v) <<< (8 * x.length) ||| leNat x = leNat y % 2 ^ v * 2 ^ (8 * x.length) + leNat x := by
    rw [Nat.shiftLeft_eq, Nat.mul_comm, Nat.two_pow_add_eq_or_of_lt hx]
  apply BitVec.eq_of_toNat_eq
  simp only [leBits, leNat_append, BitVec.toNat_ofNat, BitVec.toNat_append, Nat.mod_eq_of_lt hx, h, Nat.pow_add]
  rw [Nat.mul_comm (2 ^ v), Nat.mod_mul, show (256 : Nat) = 2 ^ 8 from rfl, ← pow_mul,
    Nat.add_mul_mod_self_left, Nat.mod_eq_of_lt hx, Nat.add_mul_div_left _ _ (by positivity), Nat.div_eq_of_lt hx,
    Nat.zero_add]
  ring

theorem leBits_nil (w : Nat) : leBits w [] = 0#w := rfl

theorem leBits_one (b : Byte) : leBits 8 [b] = b := by
  simp [leBits, leNat]

end Sys2Proof.Machine
end

