-- ==== Sys2Proof/Laws/Memory.lean ====
section
/-! SUPPORT. The laws of BUF as a list of cells: a read after a write, the canonical form kept, and that canonical
contents that read alike are equal. -/

namespace Sys2Proof.Machine

/-- In canonical contents from lo on, an offset below lo is not listed. -/
theorem Memory.read_below (m : Memory) (lo x : Nat) (hwf : Memory.wfFrom lo m = true) (hx : x < lo) :
    Memory.read m x = Config.unlistedByte := by
  induction m generalizing lo with
  | nil => rfl
  | cons c m ih =>
    obtain ⟨a, b⟩ := c
    simp only [Memory.wfFrom, Bool.and_eq_true, decide_eq_true_eq] at hwf
    have hne : x ≠ a := by omega
    rw [Memory.read, if_neg hne]
    exact ih (a + 1) hwf.2 (by omega)

theorem Memory.wfFrom_mono (m : Memory) (lo lo' : Nat) (hwf : Memory.wfFrom lo m = true) (h : lo' ≤ lo) :
    Memory.wfFrom lo' m = true := by
  cases m with
  | nil => rfl
  | cons c m =>
    obtain ⟨a, b⟩ := c
    simp only [Memory.wfFrom, Bool.and_eq_true, decide_eq_true_eq] at hwf ⊢
    exact ⟨⟨⟨by omega, hwf.1.1.2⟩, hwf.1.2⟩, hwf.2⟩

/-- What a read gives after a write: the byte at the written offset, the old byte elsewhere. -/
theorem Memory.read_write (m : Memory) (lo x : Nat) (v : Byte) (hwf : Memory.wfFrom lo m = true) (y : Nat) :
    Memory.read (Memory.write m x v) y = if y = x then v else Memory.read m y := by
  induction m generalizing lo with
  | nil =>
    by_cases hv : v = Config.unlistedByte <;> by_cases hy : y = x <;> simp [Memory.write, Memory.read, hv, hy]
  | cons c m ih =>
    obtain ⟨a, b⟩ := c
    simp only [Memory.wfFrom, Bool.and_eq_true, decide_eq_true_eq] at hwf
    have tail := hwf.2
    rcases Nat.lt_trichotomy x a with hxa | hxa | hxa
    · by_cases hv : v = Config.unlistedByte
      · by_cases hy : y = x
        · subst hy
          have hbelow : Memory.read m y = Config.unlistedByte := Memory.read_below m _ _ tail (by omega)
          simp [Memory.write, Memory.read, hxa, hv, Nat.ne_of_lt hxa, hbelow]
        · simp [Memory.write, hxa, hv, hy]
      · by_cases hy : y = x <;> simp [Memory.write, Memory.read, hxa, hv, hy]
    · subst hxa
      by_cases hv : v = Config.unlistedByte
      · by_cases hy : y = x
        · subst hy
          simp [Memory.write, hv, Memory.read_below m _ _ tail (Nat.lt_succ_self _)]
        · simp [Memory.write, Memory.read, hv, hy]
      · by_cases hy : y = x <;> simp [Memory.write, Memory.read, hv, hy]
    · have h1 : ¬ x < a := by omega
      have h2 : x ≠ a := by omega
      by_cases hya : y = a
      · have : y ≠ x := by omega
        simp [Memory.write, Memory.read, h1, h2, hya, Ne.symm h2]
      · simp [Memory.write, Memory.read, h1, h2, hya, ih _ tail]

theorem Memory.wfFrom_write (m : Memory) (lo x : Nat) (v : Byte) (hwf : Memory.wfFrom lo m = true) (hlo : lo ≤ x)
    (hx : x < 2 ^ 32) : Memory.wfFrom lo (Memory.write m x v) = true := by
  induction m generalizing lo with
  | nil =>
    have hx' : x < 4294967296 := hx
    by_cases hv : v = Config.unlistedByte <;> simp [Memory.write, Memory.wfFrom, hv, hlo, hx']
  | cons c m ih =>
    obtain ⟨a, b⟩ := c
    have whole := hwf
    simp only [Memory.wfFrom, Bool.and_eq_true, decide_eq_true_eq] at hwf
    obtain ⟨⟨⟨hloa, ha⟩, hb⟩, tail⟩ := hwf
    rcases Nat.lt_trichotomy x a with hxa | hxa | hxa
    · by_cases hv : v = Config.unlistedByte
      · simpa [Memory.write, hxa, hv] using whole
      · have hxa' : x + 1 ≤ a := by omega
        simp only [Memory.write, hxa, hv, if_true, if_false, Memory.wfFrom, hlo, hx, hxa', ha, hb, tail]
        simp [hv]
    · subst hxa
      by_cases hv : v = Config.unlistedByte
      · simpa [Memory.write, hv] using Memory.wfFrom_mono m _ lo tail (by omega)
      · simp only [Memory.write, hv, Nat.lt_irrefl, if_true, if_false, Memory.wfFrom, hlo, hx, tail]
        simp [hv]
    · have h1 : ¬ x < a := by omega
      have h2 : x ≠ a := by omega
      simp only [Memory.write, h1, h2, if_false, Memory.wfFrom, hloa, ha, hb, ih (a + 1) tail (by omega)]
      simp

/-- The host's write of a byte keeps the canonical form. -/
theorem Memory.wf_write (m : Memory) (off : Word) (v : Byte) (hwf : Memory.wf m = true) :
    Memory.wf (Memory.write m off.toNat v) = true :=
  Memory.wfFrom_write m 0 off.toNat v hwf (Nat.zero_le _) off.isLt

theorem Memory.read_write_same (m : Memory) (x : Nat) (v : Byte) (hwf : Memory.wf m = true) :
    Memory.read (Memory.write m x v) x = v := by
  rw [Memory.read_write m 0 x v hwf, if_pos rfl]

theorem Memory.read_write_other (m : Memory) (x y : Nat) (v : Byte) (hwf : Memory.wf m = true) (h : y ≠ x) :
    Memory.read (Memory.write m x v) y = Memory.read m y := by
  rw [Memory.read_write m 0 x v hwf, if_neg h]

/-- Canonical contents that read alike are the same list. -/
theorem Memory.eq_of_read_eq (m n : Memory) (lo : Nat) (hm : Memory.wfFrom lo m = true)
    (hn : Memory.wfFrom lo n = true) (h : ∀ x, Memory.read m x = Memory.read n x) : m = n := by
  induction m generalizing n lo with
  | nil =>
    cases n with
    | nil => rfl
    | cons d n =>
      obtain ⟨a, b⟩ := d
      simp only [Memory.wfFrom, Bool.and_eq_true, bne_iff_ne] at hn
      exact absurd (by simpa [Memory.read] using h a : Config.unlistedByte = b).symm hn.1.2
  | cons c m ih =>
    obtain ⟨a, b⟩ := c
    cases n with
    | nil =>
      simp only [Memory.wfFrom, Bool.and_eq_true, bne_iff_ne] at hm
      exact absurd (by simpa [Memory.read] using h a : b = Config.unlistedByte) hm.1.2
    | cons d n =>
      obtain ⟨a', b'⟩ := d
      simp only [Memory.wfFrom, Bool.and_eq_true, decide_eq_true_eq, bne_iff_ne] at hm hn
      have haa : a = a' := by
        rcases Nat.lt_trichotomy a a' with hlt | heq | hgt
        · have h1 := h a
          rw [Memory.read, if_pos rfl, Memory.read, if_neg (by omega : a ≠ a'),
            Memory.read_below n _ _ hn.2 (by omega)] at h1
          exact absurd h1 hm.1.2
        · exact heq
        · have h1 := h a'
          rw [Memory.read, if_neg (by omega : a' ≠ a), Memory.read_below m _ _ hm.2 (by omega), Memory.read,
            if_pos rfl] at h1
          exact absurd h1.symm hn.1.2
      subst haa
      have hbb : b = b' := by simpa [Memory.read] using h a
      have htail : m = n := by
        refine ih n (a + 1) hm.2 hn.2 fun x => ?_
        by_cases hx : x = a
        · subst hx
          rw [Memory.read_below m _ _ hm.2 (by omega), Memory.read_below n _ _ hn.2 (by omega)]
        · simpa [Memory.read, hx] using h x
      rw [hbb, htail]

end Sys2Proof.Machine
end

