-- ==== Sys2Proof/Laws/State.lean ====
section
/-! SUPPORT. One lemma per field of State for each named update: the end of a command (finish), abort, a BUFLEN write,
a placed byte, the reset move. raise and done are finish, and rewrite to it. -/

namespace Sys2Proof.Machine

@[simp] theorem raise_eq_finish (c : Code) (a b : Word) (s : State) : raise c a b s = finish c a b s := rfl
@[simp] theorem done_eq_finish (c : Code) (s : State) : done c s = finish c 0#32 0#32 s := rfl

@[simp] theorem finish_status (c : Code) (a b : Word) (s : State) : (finish c a b s).status = c.word := rfl
@[simp] theorem finish_err0 (c : Code) (a b : Word) (s : State) : (finish c a b s).err0 = a := rfl
@[simp] theorem finish_err1 (c : Code) (a b : Word) (s : State) : (finish c a b s).err1 = b := rfl
@[simp] theorem finish_keyin (c : Code) (a b : Word) (s : State) : (finish c a b s).keyin = s.keyin := rfl
@[simp] theorem finish_blkin (c : Code) (a b : Word) (s : State) : (finish c a b s).blkin = s.blkin := rfl
@[simp] theorem finish_blkout (c : Code) (a b : Word) (s : State) : (finish c a b s).blkout = s.blkout := rfl
@[simp] theorem finish_dgiv (c : Code) (a b : Word) (s : State) : (finish c a b s).dgiv = s.dgiv := rfl
@[simp] theorem finish_dgconst (c : Code) (a b : Word) (s : State) : (finish c a b s).dgconst = s.dgconst := rfl
@[simp] theorem finish_dgout (c : Code) (a b : Word) (s : State) : (finish c a b s).dgout = s.dgout := rfl
@[simp] theorem finish_buflen (c : Code) (a b : Word) (s : State) : (finish c a b s).buflen = s.buflen := rfl
@[simp] theorem finish_maxdesc (c : Code) (a b : Word) (s : State) : (finish c a b s).maxdesc = s.maxdesc := rfl
@[simp] theorem finish_ftype (c : Code) (a b : Word) (s : State) : (finish c a b s).ftype = s.ftype := rfl
@[simp] theorem finish_hdrMagic (c : Code) (a b : Word) (s : State) : (finish c a b s).hdrMagic = s.hdrMagic := rfl
@[simp] theorem finish_hdrSize (c : Code) (a b : Word) (s : State) : (finish c a b s).hdrSize = s.hdrSize := rfl
@[simp] theorem finish_hdrCrc (c : Code) (a b : Word) (s : State) : (finish c a b s).hdrCrc = s.hdrCrc := rfl
@[simp] theorem finish_hdrVersion (c : Code) (a b : Word) (s : State) : (finish c a b s).hdrVersion = s.hdrVersion := rfl
@[simp] theorem finish_hdrFirst (c : Code) (a b : Word) (s : State) : (finish c a b s).hdrFirst = s.hdrFirst := rfl
@[simp] theorem finish_hdrVstr (c : Code) (a b : Word) (s : State) : (finish c a b s).hdrVstr = s.hdrVstr := rfl
@[simp] theorem finish_descType (c : Code) (a b : Word) (s : State) : (finish c a b s).descType = s.descType := rfl
@[simp] theorem finish_descPayoff (c : Code) (a b : Word) (s : State) : (finish c a b s).descPayoff = s.descPayoff := rfl
@[simp] theorem finish_descPaysize (c : Code) (a b : Word) (s : State) : (finish c a b s).descPaysize = s.descPaysize := rfl
@[simp] theorem finish_rkv (c : Code) (a b : Word) (s : State) : (finish c a b s).rkv = s.rkv := rfl
@[simp] theorem finish_dgact (c : Code) (a b : Word) (s : State) : (finish c a b s).dgact = s.dgact := rfl
@[simp] theorem finish_holdv (c : Code) (a b : Word) (s : State) : (finish c a b s).holdv = s.holdv := rfl
@[simp] theorem finish_hdrv (c : Code) (a b : Word) (s : State) : (finish c a b s).hdrv = s.hdrv := rfl
@[simp] theorem finish_wact (c : Code) (a b : Word) (s : State) : (finish c a b s).wact = s.wact := rfl
@[simp] theorem finish_wfirst (c : Code) (a b : Word) (s : State) : (finish c a b s).wfirst = s.wfirst := rfl
@[simp] theorem finish_aborted (c : Code) (a b : Word) (s : State) : (finish c a b s).aborted = s.aborted := rfl
@[simp] theorem finish_rk (c : Code) (a b : Word) (s : State) : (finish c a b s).rk = s.rk := rfl
@[simp] theorem finish_acc (c : Code) (a b : Word) (s : State) : (finish c a b s).acc = s.acc := rfl
@[simp] theorem finish_hold (c : Code) (a b : Word) (s : State) : (finish c a b s).hold = s.hold := rfl
@[simp] theorem finish_wcur (c : Code) (a b : Word) (s : State) : (finish c a b s).wcur = s.wcur := rfl
@[simp] theorem finish_wprev (c : Code) (a b : Word) (s : State) : (finish c a b s).wprev = s.wprev := rfl
@[simp] theorem finish_wcnt (c : Code) (a b : Word) (s : State) : (finish c a b s).wcnt = s.wcnt := rfl
@[simp] theorem finish_wmax (c : Code) (a b : Word) (s : State) : (finish c a b s).wmax = s.wmax := rfl
@[simp] theorem finish_buf (c : Code) (a b : Word) (s : State) : (finish c a b s).buf = s.buf := rfl
@[simp] theorem finish_host (c : Code) (a b : Word) (s : State) : (finish c a b s).host = s.host := rfl
@[simp] theorem finish_readData (c : Code) (a b : Word) (s : State) : (finish c a b s).readData = s.readData := rfl

@[simp] theorem abort_status (s : State) : (abort s).status = Code.aborted.word := rfl
@[simp] theorem abort_err0 (s : State) : (abort s).err0 = 0#32 := rfl
@[simp] theorem abort_err1 (s : State) : (abort s).err1 = 0#32 := rfl
@[simp] theorem abort_keyin (s : State) : (abort s).keyin = s.keyin := rfl
@[simp] theorem abort_blkin (s : State) : (abort s).blkin = s.blkin := rfl
@[simp] theorem abort_blkout (s : State) : (abort s).blkout = s.blkout := rfl
@[simp] theorem abort_dgiv (s : State) : (abort s).dgiv = s.dgiv := rfl
@[simp] theorem abort_dgconst (s : State) : (abort s).dgconst = s.dgconst := rfl
@[simp] theorem abort_dgout (s : State) : (abort s).dgout = s.dgout := rfl
@[simp] theorem abort_buflen (s : State) : (abort s).buflen = s.buflen := rfl
@[simp] theorem abort_maxdesc (s : State) : (abort s).maxdesc = s.maxdesc := rfl
@[simp] theorem abort_ftype (s : State) : (abort s).ftype = s.ftype := rfl
@[simp] theorem abort_hdrMagic (s : State) : (abort s).hdrMagic = s.hdrMagic := rfl
@[simp] theorem abort_hdrSize (s : State) : (abort s).hdrSize = s.hdrSize := rfl
@[simp] theorem abort_hdrCrc (s : State) : (abort s).hdrCrc = s.hdrCrc := rfl
@[simp] theorem abort_hdrVersion (s : State) : (abort s).hdrVersion = s.hdrVersion := rfl
@[simp] theorem abort_hdrFirst (s : State) : (abort s).hdrFirst = s.hdrFirst := rfl
@[simp] theorem abort_hdrVstr (s : State) : (abort s).hdrVstr = s.hdrVstr := rfl
@[simp] theorem abort_descType (s : State) : (abort s).descType = s.descType := rfl
@[simp] theorem abort_descPayoff (s : State) : (abort s).descPayoff = s.descPayoff := rfl
@[simp] theorem abort_descPaysize (s : State) : (abort s).descPaysize = s.descPaysize := rfl
@[simp] theorem abort_rkv (s : State) : (abort s).rkv = s.rkv := rfl
@[simp] theorem abort_dgact (s : State) : (abort s).dgact = s.dgact := rfl
@[simp] theorem abort_holdv (s : State) : (abort s).holdv = s.holdv := rfl
@[simp] theorem abort_hdrv (s : State) : (abort s).hdrv = s.hdrv := rfl
@[simp] theorem abort_wact (s : State) : (abort s).wact = s.wact := rfl
@[simp] theorem abort_wfirst (s : State) : (abort s).wfirst = s.wfirst := rfl
@[simp] theorem abort_aborted (s : State) : (abort s).aborted = true := rfl
@[simp] theorem abort_rk (s : State) : (abort s).rk = s.rk := rfl
@[simp] theorem abort_acc (s : State) : (abort s).acc = s.acc := rfl
@[simp] theorem abort_hold (s : State) : (abort s).hold = s.hold := rfl
@[simp] theorem abort_wcur (s : State) : (abort s).wcur = s.wcur := rfl
@[simp] theorem abort_wprev (s : State) : (abort s).wprev = s.wprev := rfl
@[simp] theorem abort_wcnt (s : State) : (abort s).wcnt = s.wcnt := rfl
@[simp] theorem abort_wmax (s : State) : (abort s).wmax = s.wmax := rfl
@[simp] theorem abort_buf (s : State) : (abort s).buf = s.buf := rfl
@[simp] theorem abort_host (s : State) : (abort s).host = s.host := rfl
@[simp] theorem abort_readData (s : State) : (abort s).readData = s.readData := rfl

@[simp] theorem writeBuflen_status (v : Word) (s : State) : (writeBuflen v s).status = s.status := rfl
@[simp] theorem writeBuflen_err0 (v : Word) (s : State) : (writeBuflen v s).err0 = s.err0 := rfl
@[simp] theorem writeBuflen_err1 (v : Word) (s : State) : (writeBuflen v s).err1 = s.err1 := rfl
@[simp] theorem writeBuflen_keyin (v : Word) (s : State) : (writeBuflen v s).keyin = s.keyin := rfl
@[simp] theorem writeBuflen_blkin (v : Word) (s : State) : (writeBuflen v s).blkin = s.blkin := rfl
@[simp] theorem writeBuflen_blkout (v : Word) (s : State) : (writeBuflen v s).blkout = s.blkout := rfl
@[simp] theorem writeBuflen_dgiv (v : Word) (s : State) : (writeBuflen v s).dgiv = s.dgiv := rfl
@[simp] theorem writeBuflen_dgconst (v : Word) (s : State) : (writeBuflen v s).dgconst = s.dgconst := rfl
@[simp] theorem writeBuflen_dgout (v : Word) (s : State) : (writeBuflen v s).dgout = s.dgout := rfl
@[simp] theorem writeBuflen_buflen (v : Word) (s : State) : (writeBuflen v s).buflen = v := rfl
@[simp] theorem writeBuflen_maxdesc (v : Word) (s : State) : (writeBuflen v s).maxdesc = s.maxdesc := rfl
@[simp] theorem writeBuflen_ftype (v : Word) (s : State) : (writeBuflen v s).ftype = s.ftype := rfl
@[simp] theorem writeBuflen_hdrMagic (v : Word) (s : State) : (writeBuflen v s).hdrMagic = s.hdrMagic := rfl
@[simp] theorem writeBuflen_hdrSize (v : Word) (s : State) : (writeBuflen v s).hdrSize = s.hdrSize := rfl
@[simp] theorem writeBuflen_hdrCrc (v : Word) (s : State) : (writeBuflen v s).hdrCrc = s.hdrCrc := rfl
@[simp] theorem writeBuflen_hdrVersion (v : Word) (s : State) : (writeBuflen v s).hdrVersion = s.hdrVersion := rfl
@[simp] theorem writeBuflen_hdrFirst (v : Word) (s : State) : (writeBuflen v s).hdrFirst = s.hdrFirst := rfl
@[simp] theorem writeBuflen_hdrVstr (v : Word) (s : State) : (writeBuflen v s).hdrVstr = s.hdrVstr := rfl
@[simp] theorem writeBuflen_descType (v : Word) (s : State) : (writeBuflen v s).descType = s.descType := rfl
@[simp] theorem writeBuflen_descPayoff (v : Word) (s : State) : (writeBuflen v s).descPayoff = s.descPayoff := rfl
@[simp] theorem writeBuflen_descPaysize (v : Word) (s : State) : (writeBuflen v s).descPaysize = s.descPaysize := rfl
@[simp] theorem writeBuflen_rkv (v : Word) (s : State) : (writeBuflen v s).rkv = s.rkv := rfl
@[simp] theorem writeBuflen_dgact (v : Word) (s : State) : (writeBuflen v s).dgact = s.dgact := rfl
@[simp] theorem writeBuflen_holdv (v : Word) (s : State) : (writeBuflen v s).holdv = s.holdv := rfl
@[simp] theorem writeBuflen_hdrv (v : Word) (s : State) : (writeBuflen v s).hdrv = false := rfl
@[simp] theorem writeBuflen_wact (v : Word) (s : State) : (writeBuflen v s).wact = false := rfl
@[simp] theorem writeBuflen_wfirst (v : Word) (s : State) : (writeBuflen v s).wfirst = s.wfirst := rfl
@[simp] theorem writeBuflen_aborted (v : Word) (s : State) : (writeBuflen v s).aborted = s.aborted := rfl
@[simp] theorem writeBuflen_rk (v : Word) (s : State) : (writeBuflen v s).rk = s.rk := rfl
@[simp] theorem writeBuflen_acc (v : Word) (s : State) : (writeBuflen v s).acc = s.acc := rfl
@[simp] theorem writeBuflen_hold (v : Word) (s : State) : (writeBuflen v s).hold = s.hold := rfl
@[simp] theorem writeBuflen_wcur (v : Word) (s : State) : (writeBuflen v s).wcur = s.wcur := rfl
@[simp] theorem writeBuflen_wprev (v : Word) (s : State) : (writeBuflen v s).wprev = s.wprev := rfl
@[simp] theorem writeBuflen_wcnt (v : Word) (s : State) : (writeBuflen v s).wcnt = s.wcnt := rfl
@[simp] theorem writeBuflen_wmax (v : Word) (s : State) : (writeBuflen v s).wmax = s.wmax := rfl
@[simp] theorem writeBuflen_buf (v : Word) (s : State) : (writeBuflen v s).buf = s.buf := rfl
@[simp] theorem writeBuflen_host (v : Word) (s : State) : (writeBuflen v s).host = s.host := rfl
@[simp] theorem writeBuflen_readData (v : Word) (s : State) : (writeBuflen v s).readData = s.readData := rfl

@[simp] theorem placeByte_status (off : Word) (v : Byte) (s : State) : (placeByte off v s).status = s.status := rfl
@[simp] theorem placeByte_err0 (off : Word) (v : Byte) (s : State) : (placeByte off v s).err0 = s.err0 := rfl
@[simp] theorem placeByte_err1 (off : Word) (v : Byte) (s : State) : (placeByte off v s).err1 = s.err1 := rfl
@[simp] theorem placeByte_keyin (off : Word) (v : Byte) (s : State) : (placeByte off v s).keyin = s.keyin := rfl
@[simp] theorem placeByte_blkin (off : Word) (v : Byte) (s : State) : (placeByte off v s).blkin = s.blkin := rfl
@[simp] theorem placeByte_blkout (off : Word) (v : Byte) (s : State) : (placeByte off v s).blkout = s.blkout := rfl
@[simp] theorem placeByte_dgiv (off : Word) (v : Byte) (s : State) : (placeByte off v s).dgiv = s.dgiv := rfl
@[simp] theorem placeByte_dgconst (off : Word) (v : Byte) (s : State) : (placeByte off v s).dgconst = s.dgconst := rfl
@[simp] theorem placeByte_dgout (off : Word) (v : Byte) (s : State) : (placeByte off v s).dgout = s.dgout := rfl
@[simp] theorem placeByte_buflen (off : Word) (v : Byte) (s : State) : (placeByte off v s).buflen = s.buflen := rfl
@[simp] theorem placeByte_maxdesc (off : Word) (v : Byte) (s : State) : (placeByte off v s).maxdesc = s.maxdesc := rfl
@[simp] theorem placeByte_ftype (off : Word) (v : Byte) (s : State) : (placeByte off v s).ftype = s.ftype := rfl
@[simp] theorem placeByte_hdrMagic (off : Word) (v : Byte) (s : State) : (placeByte off v s).hdrMagic = s.hdrMagic := rfl
@[simp] theorem placeByte_hdrSize (off : Word) (v : Byte) (s : State) : (placeByte off v s).hdrSize = s.hdrSize := rfl
@[simp] theorem placeByte_hdrCrc (off : Word) (v : Byte) (s : State) : (placeByte off v s).hdrCrc = s.hdrCrc := rfl
@[simp] theorem placeByte_hdrVersion (off : Word) (v : Byte) (s : State) : (placeByte off v s).hdrVersion = s.hdrVersion := rfl
@[simp] theorem placeByte_hdrFirst (off : Word) (v : Byte) (s : State) : (placeByte off v s).hdrFirst = s.hdrFirst := rfl
@[simp] theorem placeByte_hdrVstr (off : Word) (v : Byte) (s : State) : (placeByte off v s).hdrVstr = s.hdrVstr := rfl
@[simp] theorem placeByte_descType (off : Word) (v : Byte) (s : State) : (placeByte off v s).descType = s.descType := rfl
@[simp] theorem placeByte_descPayoff (off : Word) (v : Byte) (s : State) : (placeByte off v s).descPayoff = s.descPayoff := rfl
@[simp] theorem placeByte_descPaysize (off : Word) (v : Byte) (s : State) : (placeByte off v s).descPaysize = s.descPaysize := rfl
@[simp] theorem placeByte_rkv (off : Word) (v : Byte) (s : State) : (placeByte off v s).rkv = s.rkv := rfl
@[simp] theorem placeByte_dgact (off : Word) (v : Byte) (s : State) : (placeByte off v s).dgact = s.dgact := rfl
@[simp] theorem placeByte_holdv (off : Word) (v : Byte) (s : State) : (placeByte off v s).holdv = s.holdv := rfl
@[simp] theorem placeByte_hdrv (off : Word) (v : Byte) (s : State) : (placeByte off v s).hdrv = s.hdrv := rfl
@[simp] theorem placeByte_wact (off : Word) (v : Byte) (s : State) : (placeByte off v s).wact = s.wact := rfl
@[simp] theorem placeByte_wfirst (off : Word) (v : Byte) (s : State) : (placeByte off v s).wfirst = s.wfirst := rfl
@[simp] theorem placeByte_aborted (off : Word) (v : Byte) (s : State) : (placeByte off v s).aborted = s.aborted := rfl
@[simp] theorem placeByte_rk (off : Word) (v : Byte) (s : State) : (placeByte off v s).rk = s.rk := rfl
@[simp] theorem placeByte_acc (off : Word) (v : Byte) (s : State) : (placeByte off v s).acc = s.acc := rfl
@[simp] theorem placeByte_hold (off : Word) (v : Byte) (s : State) : (placeByte off v s).hold = s.hold := rfl
@[simp] theorem placeByte_wcur (off : Word) (v : Byte) (s : State) : (placeByte off v s).wcur = s.wcur := rfl
@[simp] theorem placeByte_wprev (off : Word) (v : Byte) (s : State) : (placeByte off v s).wprev = s.wprev := rfl
@[simp] theorem placeByte_wcnt (off : Word) (v : Byte) (s : State) : (placeByte off v s).wcnt = s.wcnt := rfl
@[simp] theorem placeByte_wmax (off : Word) (v : Byte) (s : State) : (placeByte off v s).wmax = s.wmax := rfl
@[simp] theorem placeByte_buf (off : Word) (v : Byte) (s : State) : (placeByte off v s).buf = Memory.write s.buf off.toNat v := rfl
@[simp] theorem placeByte_host (off : Word) (v : Byte) (s : State) : (placeByte off v s).host = s.host := rfl
@[simp] theorem placeByte_readData (off : Word) (v : Byte) (s : State) : (placeByte off v s).readData = s.readData := rfl

@[simp] theorem resetCore_status (s : State) : (resetCore s).status = State.reset.status := rfl
@[simp] theorem resetCore_err0 (s : State) : (resetCore s).err0 = State.reset.err0 := rfl
@[simp] theorem resetCore_err1 (s : State) : (resetCore s).err1 = State.reset.err1 := rfl
@[simp] theorem resetCore_keyin (s : State) : (resetCore s).keyin = State.reset.keyin := rfl
@[simp] theorem resetCore_blkin (s : State) : (resetCore s).blkin = State.reset.blkin := rfl
@[simp] theorem resetCore_blkout (s : State) : (resetCore s).blkout = State.reset.blkout := rfl
@[simp] theorem resetCore_dgiv (s : State) : (resetCore s).dgiv = State.reset.dgiv := rfl
@[simp] theorem resetCore_dgconst (s : State) : (resetCore s).dgconst = State.reset.dgconst := rfl
@[simp] theorem resetCore_dgout (s : State) : (resetCore s).dgout = State.reset.dgout := rfl
@[simp] theorem resetCore_buflen (s : State) : (resetCore s).buflen = State.reset.buflen := rfl
@[simp] theorem resetCore_maxdesc (s : State) : (resetCore s).maxdesc = State.reset.maxdesc := rfl
@[simp] theorem resetCore_ftype (s : State) : (resetCore s).ftype = State.reset.ftype := rfl
@[simp] theorem resetCore_hdrMagic (s : State) : (resetCore s).hdrMagic = State.reset.hdrMagic := rfl
@[simp] theorem resetCore_hdrSize (s : State) : (resetCore s).hdrSize = State.reset.hdrSize := rfl
@[simp] theorem resetCore_hdrCrc (s : State) : (resetCore s).hdrCrc = State.reset.hdrCrc := rfl
@[simp] theorem resetCore_hdrVersion (s : State) : (resetCore s).hdrVersion = State.reset.hdrVersion := rfl
@[simp] theorem resetCore_hdrFirst (s : State) : (resetCore s).hdrFirst = State.reset.hdrFirst := rfl
@[simp] theorem resetCore_hdrVstr (s : State) : (resetCore s).hdrVstr = State.reset.hdrVstr := rfl
@[simp] theorem resetCore_descType (s : State) : (resetCore s).descType = State.reset.descType := rfl
@[simp] theorem resetCore_descPayoff (s : State) : (resetCore s).descPayoff = State.reset.descPayoff := rfl
@[simp] theorem resetCore_descPaysize (s : State) : (resetCore s).descPaysize = State.reset.descPaysize := rfl
@[simp] theorem resetCore_rkv (s : State) : (resetCore s).rkv = State.reset.rkv := rfl
@[simp] theorem resetCore_dgact (s : State) : (resetCore s).dgact = State.reset.dgact := rfl
@[simp] theorem resetCore_holdv (s : State) : (resetCore s).holdv = State.reset.holdv := rfl
@[simp] theorem resetCore_hdrv (s : State) : (resetCore s).hdrv = State.reset.hdrv := rfl
@[simp] theorem resetCore_wact (s : State) : (resetCore s).wact = State.reset.wact := rfl
@[simp] theorem resetCore_wfirst (s : State) : (resetCore s).wfirst = State.reset.wfirst := rfl
@[simp] theorem resetCore_aborted (s : State) : (resetCore s).aborted = State.reset.aborted := rfl
@[simp] theorem resetCore_rk (s : State) : (resetCore s).rk = State.reset.rk := rfl
@[simp] theorem resetCore_acc (s : State) : (resetCore s).acc = State.reset.acc := rfl
@[simp] theorem resetCore_hold (s : State) : (resetCore s).hold = State.reset.hold := rfl
@[simp] theorem resetCore_wcur (s : State) : (resetCore s).wcur = State.reset.wcur := rfl
@[simp] theorem resetCore_wprev (s : State) : (resetCore s).wprev = State.reset.wprev := rfl
@[simp] theorem resetCore_wcnt (s : State) : (resetCore s).wcnt = State.reset.wcnt := rfl
@[simp] theorem resetCore_wmax (s : State) : (resetCore s).wmax = State.reset.wmax := rfl
@[simp] theorem resetCore_buf (s : State) : (resetCore s).buf = s.buf := rfl
@[simp] theorem resetCore_host (s : State) : (resetCore s).host = s.host := rfl
@[simp] theorem resetCore_readData (s : State) : (resetCore s).readData = s.readData := rfl

end Sys2Proof.Machine
end

