-- ==== Sys2Proof/Laws/Ops.lean ====
section
/-! SUPPORT. For each shared operation, what it can do: the reads of BUF, the checks before a command and the ways it
ends. -/

namespace Sys2Proof.Machine

/-- No two codes of rule R181 are the same number. -/
theorem Code.word_inj {c d : Code} (h : c.word = d.word) : c = d := by
  cases c <;> cases d <;> first | rfl | exact absurd h (by decide)

theorem unlessAborted_of_clear {s : State} (h : s.aborted = false) (k : Answer) : unlessAborted s k = k := by
  simp [unlessAborted, h]

theorem unlessAborted_of_set {s : State} (h : s.aborted = true) (k : Answer) : unlessAborted s k = .next s := by
  simp [unlessAborted, h]

/-- If it answers next t, then CORE was aborted and nothing changed, or the command ran. -/
theorem unlessAborted_next {s t : State} {k : Answer} (h : unlessAborted s k = .next t) :
    (s.aborted = true ∧ t = s) ∨ (s.aborted = false ∧ k = .next t) := by
  cases ha : s.aborted with
  | true => rw [unlessAborted_of_set ha] at h; injection h with h; exact .inl ⟨rfl, h.symm⟩
  | false => rw [unlessAborted_of_clear ha] at h; exact .inr ⟨rfl, h⟩

theorem requireFlag_of_set (c : Code) (s : State) (k : Answer) : requireFlag true c s k = k := rfl

theorem requireFlag_of_clear (c : Code) (s : State) (k : Answer) :
    requireFlag false c s k = .next (finish c 0#32 0#32 s) := rfl

/-- If it answers next t, then the flag was clear and only the outcome was written, or the operation ran. -/
theorem requireFlag_next {f : Bool} {c : Code} {s t : State} {k : Answer} (h : requireFlag f c s k = .next t) :
    (f = false ∧ t = finish c 0#32 0#32 s) ∨ (f = true ∧ k = .next t) := by
  cases f with
  | true => exact .inr ⟨rfl, h⟩
  | false => rw [requireFlag_of_clear] at h; injection h with h; exact .inl ⟨rfl, h.symm⟩

@[simp] theorem orFault_some {α : Type} (a : α) (k : α → Answer) : orFault (some a) k = k a := rfl

/-- If it answers next t, then the read had a value and the operation went on with it. -/
theorem orFault_next {α : Type} {r : Option α} {k : α → Answer} {t : State} (h : orFault r k = .next t) :
    ∃ a, r = some a ∧ k a = .next t := by
  cases r with
  | none => cases h
  | some a => exact ⟨a, rfl, h⟩

@[simp] theorem length_bufBytes (s : State) (off n : Nat) : (bufBytes s off n).length = n := by
  induction n generalizing off with
  | zero => rfl
  | succ n ih => simp [bufBytes, ih]

theorem bufBytes_append (s : State) (off m n : Nat) :
    bufBytes s off (m + n) = bufBytes s off m ++ bufBytes s (off + m) n := by
  induction m generalizing off with
  | zero => simp [bufBytes]
  | succ m ih =>
    rw [show m + 1 + n = m + n + 1 by omega, bufBytes, bufBytes, ih, show off + 1 + m = off + (m + 1) by omega]
    rfl

theorem memBytes_of_le {s : State} {off n : Nat} (h : off + n ≤ s.buflen.toNat) :
    memBytes s off n = some (bufBytes s off n) := by
  simp [memBytes, inBuf, h]

theorem memBytes_of_lt {s : State} {off n : Nat} (h : s.buflen.toNat < off + n) : memBytes s off n = none := by
  simp [memBytes, inBuf, h]

/-- If MemBytes has a value, the region lies in the buffer and the value is its bytes. -/
theorem memBytes_some {s : State} {off n : Nat} {bs : List Byte} (h : memBytes s off n = some bs) :
    off + n ≤ s.buflen.toNat ∧ bs = bufBytes s off n := by
  by_cases hb : off + n ≤ s.buflen.toNat
  · rw [memBytes_of_le hb] at h; injection h with h; exact ⟨hb, h.symm⟩
  · rw [memBytes_of_lt (by omega)] at h; cases h

/-- A byte, a field or a block read depends on BUF and BUFLEN alone. -/
theorem bufBytes_congr {s t : State} (hb : t.buf = s.buf) (off n : Nat) : bufBytes t off n = bufBytes s off n := by
  induction n generalizing off with
  | zero => rfl
  | succ n ih => simp [bufBytes, bufByte, hb, ih]

theorem memBytes_congr {s t : State} (hb : t.buf = s.buf) (hl : t.buflen = s.buflen) (off n : Nat) :
    memBytes t off n = memBytes s off n := by
  simp [memBytes, inBuf, hl, bufBytes_congr hb]

theorem memRead_congr {s t : State} (hb : t.buf = s.buf) (hl : t.buflen = s.buflen) (off n : Nat) :
    memRead t off n = memRead s off n := by
  simp [memRead, memBytes_congr hb hl]

/-- CMD is register 0x00 and no other (rule R25). -/
theorem regOfNo_cmd {no : Nat} (h : regOfNo no = some .cmd) : no = 0x00 := by
  by_contra hne
  simp only [regOfNo, regMap, List.find?, Option.map_eq_some_iff] at h
  obtain ⟨r, hr, hc⟩ := h
  repeat' split at hr
  all_goals (cases hr; try cases hc)
  all_goals simp_all

end Sys2Proof.Machine
end

