-- ==== Sys2Proof/Laws/Walker.lean ====
section
/-! SUPPORT. What the walker's shared operations do: a descriptor header read inside the buffer, DescCheck and FIND's
loop. -/

namespace Sys2Proof.Machine

theorem memRead32_of_le {s : State} {off : Nat} (h : off + 4 ≤ s.buflen.toNat) :
    memRead32 s off = some (leBits 32 (bufBytes s off 4)) := by
  simp [memRead32, memRead, memBytes_of_le h]

/-- A descriptor header that lies in the buffer is read whole. -/
theorem readDesc_of_le {s : State} {off : Nat} (h : off + 32 ≤ s.buflen.toNat) :
    readDesc s off = some ⟨leBits 32 (bufBytes s off 4), leBits 32 (bufBytes s (off + 4) 4),
      leBits 32 (bufBytes s (off + 8) 4), leBits 32 (bufBytes s (off + 12) 4),
      leBits 128 (bufBytes s (off + 16) 16)⟩ := by
  simp [readDesc, memRead32_of_le (s := s) (off := off) (by omega),
    memRead32_of_le (s := s) (off := off + 4) (by omega), memRead32_of_le (s := s) (off := off + 8) (by omega),
    memRead32_of_le (s := s) (off := off + 12) (by omega), memBytes_of_le (s := s) (off := off + 16) (n := 16) (by omega)]

/-- DescCheck always answers: step 3 guards its reads (rule R57). -/
theorem descCheck_isSome (s : State) (cur prev : Word) (cnt : Nat) (first : Bool) (cap : Nat) :
    ∃ r, descCheck s cur prev cnt first cap = some r := by
  unfold descCheck
  split
  · exact ⟨_, rfl⟩
  split
  · exact ⟨_, rfl⟩
  split
  · exact ⟨_, rfl⟩
  · next h =>
    have hd : Config.descW = 32 := rfl
    rw [readDesc_of_le (by omega)]
    exact ⟨_, rfl⟩

/-- What DescCheck's answer of a view says: every step passed (rule R164). -/
theorem descCheck_view {s : State} {cur prev : Word} {cnt : Nat} {first : Bool} {cap : Nat} {ty : Quad}
    {po ps nx : Word} (h : descCheck s cur prev cnt first cap = some (.view ty po ps nx)) :
    cnt < cap ∧ (first = true ∨ prev.toNat < cur.toNat) ∧ cur.toNat + 32 ≤ s.buflen.toNat ∧
      po.toNat + ps.toNat ≤ s.buflen.toNat := by
  have hd : Config.descW = 32 := rfl
  unfold descCheck at h
  split at h
  · cases h
  split at h
  · cases h
  split at h
  · cases h
  · next h1 h2 h3 =>
    rw [readDesc_of_le (by omega), Option.map_some, Option.some.injEq] at h
    unfold descFieldsCheck at h
    split at h
    · cases h
    split at h
    · cases h
    · next h4 h5 =>
      injection h with _ hpo hps _
      refine ⟨by omega, ?_, by omega, by subst hpo hps; simpa using h5⟩
      cases first with
      | true => exact .inl rfl
      | false => exact .inr (by simpa using h2)

/-- What DescCheck's answer of an error says: its code is none of those that end an enumeration or a lookup well. -/
theorem descCheck_error {s : State} {cur prev : Word} {cnt : Nat} {first : Bool} {cap : Nat} {c : Code} {a b : Word}
    (h : descCheck s cur prev cnt first cap = some (.error c a b)) : c ≠ .ok ∧ c ≠ .chainEnd ∧ c ≠ .notFound := by
  unfold descCheck at h
  split at h
  · cases h; decide
  split at h
  · cases h; decide
  split at h
  · cases h; decide
  simp only [Option.map_eq_some_iff] at h
  obtain ⟨d, -, hd⟩ := h
  unfold descFieldsCheck at hd
  split at hd
  · cases hd; decide
  split at hd <;> cases hd; decide

/-- DescCheck depends on its arguments, BUF and BUFLEN alone. -/
theorem descCheck_congr {s t : State} (hb : t.buf = s.buf) (hl : t.buflen = s.buflen) (cur prev : Word) (cnt : Nat)
    (first : Bool) (cap : Nat) : descCheck t cur prev cnt first cap = descCheck s cur prev cnt first cap := by
  have hf : descFieldsCheck t = descFieldsCheck s := by funext d; simp [descFieldsCheck, hl]
  simp only [descCheck, readDesc, memRead32, memRead_congr hb hl, memBytes_congr hb hl, hl, hf]

/-- FIND's loop is rule R168's: one turn, whatever is left of the cap. -/
theorem findLoop_turn (s : State) (cap left : Nat) (cur prev : Word) (first : Bool) (hle : left ≤ cap) :
    findLoop s cap left cur prev first =
      if cur = Config.nullOffset then some .notFound
      else
        match descCheck s cur prev (cap - left) first cap with
        | none => none
        | some (.error c a b) => some (.error c a b)
        | some (.view ty po ps nx) =>
          if ty = s.ftype then some (.found ty po ps) else findLoop s cap (left - 1) nx cur false := by
  cases left with
  | zero => simp [findLoop, descCheck]
  | succ left => rfl

/-- FIND's loop always answers. -/
theorem findLoop_isSome (s : State) (cap left : Nat) (cur prev : Word) (first : Bool) :
    ∃ r, findLoop s cap left cur prev first = some r := by
  induction left generalizing cur prev first with
  | zero =>
    by_cases h : cur = Config.nullOffset <;> simp [findLoop, h]
  | succ left ih =>
    unfold findLoop
    split
    · exact ⟨_, rfl⟩
    obtain ⟨r, hr⟩ := descCheck_isSome s cur prev (cap - (left + 1)) first cap
    rw [hr]
    cases r with
    | error c a b => exact ⟨_, rfl⟩
    | view ty po ps nx =>
      by_cases ht : ty = s.ftype
      · exact ⟨_, if_pos ht⟩
      · simpa only [if_neg ht] using ih nx cur false

end Sys2Proof.Machine
end

