-- ==== Sys2Proof/Laws/Exec.lean ====
section
/-! SUPPORT. What each command can do: if it answers next t, and CORE was not aborted, then t is one of the states
named. Where a command has one outcome the lemma names it; PDS_VALIDATE, WALK_NEXT and FIND have an error outcome that
names no code. -/

namespace Sys2Proof.Machine

/-- A command given while ABORTED = 1 changes nothing (rule R186). -/
theorem exec_of_aborted (i : Instr) {s : State} (h : s.aborted = true) : exec i s = .next s := by
  cases i <;> exact unlessAborted_of_set h _

section
variable {s t : State} (ha : s.aborted = false)
include ha

theorem execKeyexp80_next (h : execKeyexp80 s = .next t) :
    t = finish .ok 0#32 0#32 { s with rk := expand80 (shortKey s), rkv := true, keyin := 0#128 } := by
  rw [execKeyexp80, unlessAborted_of_clear ha] at h
  injection h with h; exact h.symm

theorem execKeyexp128_next (h : execKeyexp128 s = .next t) :
    t = finish .ok 0#32 0#32 { s with rk := expand128 s.keyin, rkv := true, keyin := 0#128 } := by
  rw [execKeyexp128, unlessAborted_of_clear ha] at h
  injection h with h; exact h.symm

theorem execEnc_next (h : execEnc s = .next t) :
    (s.rkv = false ∧ t = finish .noKey 0#32 0#32 s) ∨
      (s.rkv = true ∧ t = finish .ok 0#32 0#32 { s with blkout := encBlock s.rk s.blkin }) := by
  rw [execEnc, unlessAborted_of_clear ha] at h
  rcases requireFlag_next h with ⟨hf, rfl⟩ | ⟨hf, h⟩
  · exact .inl ⟨hf, rfl⟩
  · injection h with h; exact .inr ⟨hf, h.symm⟩

theorem execDec_next (h : execDec s = .next t) :
    (s.rkv = false ∧ t = finish .noKey 0#32 0#32 s) ∨
      (s.rkv = true ∧ t = finish .ok 0#32 0#32 { s with blkout := decBlock s.rk s.blkin }) := by
  rw [execDec, unlessAborted_of_clear ha] at h
  rcases requireFlag_next h with ⟨hf, rfl⟩ | ⟨hf, h⟩
  · exact .inl ⟨hf, rfl⟩
  · injection h with h; exact .inr ⟨hf, h.symm⟩

theorem execDgInit_next (h : execDgInit s = .next t) :
    t = finish .ok 0#32 0#32 { s with acc := s.dgiv, hold := 0#64, holdv := false, dgact := true } := by
  rw [execDgInit, unlessAborted_of_clear ha] at h
  injection h with h; exact h.symm

theorem execDgBlock_next (h : execDgBlock s = .next t) :
    (s.dgact = false ∧ t = finish .noDigest 0#32 0#32 s) ∨
      (s.dgact = true ∧ s.holdv = false ∧ t = finish .ok 0#32 0#32 { s with hold := s.blkin, holdv := true }) ∨
      (s.dgact = true ∧ s.holdv = true ∧ t = finish .ok 0#32 0#32
        { s with acc := compress s.acc (pairKey s.hold s.blkin), hold := 0#64, holdv := false }) := by
  rw [execDgBlock, unlessAborted_of_clear ha] at h
  rcases requireFlag_next h with ⟨hf, rfl⟩ | ⟨hf, h⟩
  · exact .inl ⟨hf, rfl⟩
  · cases hh : s.holdv <;> simp only [hh, if_true, if_false, Bool.false_eq_true] at h <;> injection h with h
    · exact .inr (.inl ⟨hf, rfl, h.symm⟩)
    · exact .inr (.inr ⟨hf, rfl, h.symm⟩)

theorem execDgFinal_next (h : execDgFinal s = .next t) :
    (s.dgact = false ∧ t = finish .noDigest 0#32 0#32 s) ∨
      (s.dgact = true ∧ t = finish .ok 0#32 0#32 { s with
        dgout := compress (if s.holdv then compress s.acc (pairKey s.hold s.hold) else s.acc) s.dgconst,
        acc := 0#64, hold := 0#64, holdv := false, dgact := false }) := by
  rw [execDgFinal, unlessAborted_of_clear ha] at h
  rcases requireFlag_next h with ⟨hf, rfl⟩ | ⟨hf, h⟩
  · exact .inl ⟨hf, rfl⟩
  · injection h with h; exact .inr ⟨hf, h.symm⟩

theorem execDgBuf_next (h : execDgBuf s = .next t) :
    (s.buflen.toNat % 8 ≠ 0 ∧ t = abort s) ∨
      (s.buflen.toNat % 8 = 0 ∧ ∃ ws, readBlocks s 0 (s.buflen.toNat / 8) = some ws ∧
        t = finish .ok 0#32 0#32 { s with dgout := digest ws s.dgiv s.dgconst }) := by
  rw [execDgBuf, unlessAborted_of_clear ha] at h
  split at h
  · next hm => injection h with h; exact .inl ⟨hm, h.symm⟩
  · next hm =>
    obtain ⟨ws, hws, h⟩ := orFault_next h
    injection h with h
    exact .inr ⟨by simpa using hm, ws, hws, h.symm⟩

theorem execScramble_next (h : execScramble s = .next t) :
    t = finish .ok 0#32 0#32 { s with blkout := encBlock (expand128 s.keyin) s.blkin, keyin := 0#128 } := by
  rw [execScramble, unlessAborted_of_clear ha] at h
  injection h with h; exact h.symm

theorem execUnscramble_next (h : execUnscramble s = .next t) :
    t = finish .ok 0#32 0#32 { s with blkout := decBlock (expand128 s.keyin) s.blkin, keyin := 0#128 } := by
  rw [execUnscramble, unlessAborted_of_clear ha] at h
  injection h with h; exact h.symm

theorem execWalkStart_next (h : execWalkStart s = .next t) :
    (s.hdrv = false ∧ t = finish .noHeader 0#32 0#32 s) ∨
      (s.hdrv = true ∧ t = finish .ok 0#32 0#32 { s with
        wcur := s.hdrFirst, wprev := 0#32, wcnt := 0#32, wfirst := true, wmax := s.maxdesc, wact := true }) := by
  rw [execWalkStart, unlessAborted_of_clear ha] at h
  rcases requireFlag_next h with ⟨hf, rfl⟩ | ⟨hf, h⟩
  · exact .inl ⟨hf, rfl⟩
  · injection h with h; exact .inr ⟨hf, h.symm⟩

theorem execWalkStop_next (h : execWalkStop s = .next t) :
    (s.wact = false ∧ t = finish .noWalk 0#32 0#32 s) ∨
      (s.wact = true ∧ t = finish .ok 0#32 0#32 { s with wact := false }) := by
  rw [execWalkStop, unlessAborted_of_clear ha] at h
  rcases requireFlag_next h with ⟨hf, rfl⟩ | ⟨hf, h⟩
  · exact .inl ⟨hf, rfl⟩
  · injection h with h; exact .inr ⟨hf, h.symm⟩

/-- WALK_NEXT: refused, at the end of the chain, an error of DescCheck, or a yield. -/
theorem execWalkNext_next (h : execWalkNext s = .next t) :
    (s.wact = false ∧ t = finish .noWalk 0#32 0#32 s) ∨
      (s.wact = true ∧ s.wcur = 0#32 ∧ t = finish .chainEnd 0#32 0#32 { s with wact := false }) ∨
      (∃ c a b, s.wact = true ∧ s.wcur ≠ 0#32 ∧
        descCheck s s.wcur s.wprev s.wcnt.toNat s.wfirst s.wmax.toNat = some (.error c a b) ∧
        t = finish c a b { s with wact := false }) ∨
      (∃ ty po ps nx, s.wact = true ∧ s.wcur ≠ 0#32 ∧
        descCheck s s.wcur s.wprev s.wcnt.toNat s.wfirst s.wmax.toNat = some (.view ty po ps nx) ∧
        t = finish .ok 0#32 0#32 { s with
          descType := ty, descPayoff := po, descPaysize := ps,
          wprev := s.wcur, wcur := nx, wcnt := s.wcnt + 1#32, wfirst := false }) := by
  rw [execWalkNext, unlessAborted_of_clear ha] at h
  rcases requireFlag_next h with ⟨hf, rfl⟩ | ⟨hf, h⟩
  · exact .inl ⟨hf, rfl⟩
  split at h
  · next hc => injection h with h; exact .inr (.inl ⟨hf, hc, h.symm⟩)
  · next hc =>
    obtain ⟨r, hr, h⟩ := orFault_next h
    cases r with
    | error c a b => injection h with h; exact .inr (.inr (.inl ⟨c, a, b, hf, hc, hr, h.symm⟩))
    | view ty po ps nx => injection h with h; exact .inr (.inr (.inr ⟨ty, po, ps, nx, hf, hc, hr, h.symm⟩))

/-- FIND: refused, or one of the three ends of its loop. -/
theorem execFind_next (h : execFind s = .next t) :
    (s.hdrv = false ∧ t = finish .noHeader 0#32 0#32 s) ∨
      (s.hdrv = true ∧ ∃ r, findLoop s 32 32 s.hdrFirst 0#32 true = some r ∧
        t = match r with
          | .error c a b => finish c a b s
          | .found ty po ps => finish .ok 0#32 0#32 { s with descType := ty, descPayoff := po, descPaysize := ps }
          | .notFound => finish .notFound 0#32 0#32 s) := by
  rw [execFind, unlessAborted_of_clear ha] at h
  rcases requireFlag_next h with ⟨hf, rfl⟩ | ⟨hf, h⟩
  · exact .inl ⟨hf, rfl⟩
  · obtain ⟨r, hr, h⟩ := orFault_next h
    refine .inr ⟨hf, r, hr, ?_⟩
    cases r <;> (injection h with h; exact h.symm)

/-- PDS_VALIDATE: an error, only the outcome written after HDRV and WACT are cleared, or the six header registers
filled from a header that passed every check. -/
theorem execPdsValidate_next (h : execPdsValidate s = .next t) :
    (∃ c a b, c ≠ .ok ∧ t = finish c a b { s with hdrv := false, wact := false }) ∨
      (∃ magic hsize stored version first : Word, ∃ vstr : BitVec 1024,
        magic = Config.pdsMagic ∧ 1 ≤ version.toNat ∧ 148 ≤ hsize.toNat ∧ hsize.toNat ≤ s.buflen.toNat ∧
        t = finish .ok 0#32 0#32 { s with
          hdrv := true, wact := false, hdrMagic := magic, hdrSize := hsize, hdrCrc := stored,
          hdrVersion := version, hdrFirst := first, hdrVstr := vstr }) := by
  rw [execPdsValidate, unlessAborted_of_clear ha] at h
  unfold validateHeader at h
  split at h
  · injection h with h; exact .inl ⟨_, _, _, by decide, h.symm⟩
  obtain ⟨magic, -, h⟩ := orFault_next h
  split at h
  · injection h with h; exact .inl ⟨_, _, _, by decide, h.symm⟩
  next hmagic =>
  obtain ⟨version, -, h⟩ := orFault_next h
  split at h
  · injection h with h; exact .inl ⟨_, _, _, by decide, h.symm⟩
  next hversion =>
  obtain ⟨hsize, -, h⟩ := orFault_next h
  split at h
  · injection h with h; exact .inl ⟨_, _, _, by decide, h.symm⟩
  next hlow =>
  split at h
  · injection h with h; exact .inl ⟨_, _, _, by decide, h.symm⟩
  next hhigh =>
  unfold validateCrc at h
  obtain ⟨stored, -, h⟩ := orFault_next h
  obtain ⟨covered, -, h⟩ := orFault_next h
  split at h
  · injection h with h; exact .inl ⟨_, _, _, by decide, h.symm⟩
  obtain ⟨first, -, h⟩ := orFault_next h
  obtain ⟨vstr, -, h⟩ := orFault_next h
  injection h with h
  have hw : Config.hdrW = 148 := rfl
  have hv : Config.pdsMinVersion.toNat = 1 := rfl
  exact .inr ⟨magic, hsize, stored, version, first, leBits 1024 vstr, by simpa using hmagic, by omega, by omega,
    by simpa using hhigh, h.symm⟩

end

end Sys2Proof.Machine
end

