-- ==== Sys2Proof/Laws/Step.lean ====
section
/-! SUPPORT. What a step can do: one inversion lemma for the move served, one for the step. -/

namespace Sys2Proof.Machine

/-- What a host write of a register that is neither CMD nor BUFLEN can change. -/
theorem hostWrite_operand (no v : Nat) (s : State) (h : no ≠ 0x10) :
    hostWrite no v s = { s with
      keyin := (hostWrite no v s).keyin, blkin := (hostWrite no v s).blkin, dgiv := (hostWrite no v s).dgiv,
      dgconst := (hostWrite no v s).dgconst, maxdesc := (hostWrite no v s).maxdesc,
      ftype := (hostWrite no v s).ftype } := by
  cases hr : regOfNo no with
  | none => simp only [hostWrite, hr]
  | some r =>
    have hne : r ≠ .buflen := by
      rintro rfl
      apply h
      simp only [regOfNo, regMap, List.find?, Option.map_eq_some_iff] at hr
      obtain ⟨p, hp, hc⟩ := hr
      repeat' split at hp
      all_goals (cases hp; try cases hc)
      all_goals simp_all
    cases r <;> simp only [hostWrite, hr, regWrite]
    exact absurd rfl hne

/-- The command a write to CMD issues, if it answers next t: ignored, illegal, or the decoded command's own effect. -/
theorem issueCommand_next {w : Word} {s t : State} (h : issueCommand w s = .next t) :
    (s.aborted = true ∧ t = s) ∨
      (s.aborted = false ∧ (∃ r, decode w = .rejected r) ∧ t = finish .illegalCommand 0#32 0#32 s) ∨
      (s.aborted = false ∧ ∃ i, decode w = .instr i ∧ exec i s = .next t) := by
  rcases Bool.eq_false_or_eq_true s.aborted with ha | ha <;> unfold issueCommand at h <;>
    cases hd : decode w <;> simp only [hd] at h
  · rw [exec_of_aborted _ ha] at h; injection h with h; exact .inl ⟨ha, h.symm⟩
  · rw [illegalCommand, unlessAborted_of_set ha] at h; injection h with h; exact .inl ⟨ha, h.symm⟩
  · exact .inr (.inr ⟨ha, _, rfl, h⟩)
  · rw [illegalCommand, unlessAborted_of_clear ha] at h; injection h with h
    exact .inr (.inl ⟨ha, ⟨_, rfl⟩, h.symm⟩)

/-- A step that answers next t served no move, a reset, a read, a placed byte, a command, a BUFLEN write, or a write of
another register. -/
theorem step_next {s t : State} (h : step s = .next t) :
    (s.host = [] ∧ t = s) ∨
      (∃ rest, s.host = .reset :: rest ∧ t = resetCore { s with host := rest }) ∨
      (∃ no rest, s.host = .read no :: rest ∧ t = { s with host := rest, readData := hostRead no { s with host := rest } }) ∨
      (∃ off v rest, s.host = .place off v :: rest ∧ t = placeByte off v { s with host := rest }) ∨
      (∃ v rest, s.host = .write 0x00 v :: rest ∧ issueCommand (BitVec.ofNat 32 v) { s with host := rest } = .next t) ∨
      (∃ v rest, s.host = .write 0x10 v :: rest ∧ t = writeBuflen (BitVec.ofNat 32 v) { s with host := rest }) ∨
      (∃ no v rest, s.host = .write no v :: rest ∧ no ≠ 0x00 ∧ no ≠ 0x10 ∧
        t = hostWrite no v { s with host := rest }) := by
  unfold step at h
  split at h
  · next hh => injection h with h; exact .inl ⟨hh, h.symm⟩
  next m rest hh =>
  cases m with
  | reset => injection h with h; exact .inr (.inl ⟨rest, hh, h.symm⟩)
  | read no => injection h with h; exact .inr (.inr (.inl ⟨no, rest, hh, h.symm⟩))
  | place off v => injection h with h; exact .inr (.inr (.inr (.inl ⟨off, v, rest, hh, h.symm⟩)))
  | write no v =>
    simp only [serveMove, serveWrite] at h
    split at h
    · next hr =>
      have h0 := regOfNo_cmd hr
      subst h0
      exact .inr (.inr (.inr (.inr (.inl ⟨v, rest, hh, h⟩))))
    · next hr =>
      injection h with h
      have hne : no ≠ 0x00 := by rintro rfl; exact hr rfl
      by_cases h10 : no = 0x10
      · subst h10; exact .inr (.inr (.inr (.inr (.inr (.inl ⟨v, rest, hh, h.symm⟩)))))
      · exact .inr (.inr (.inr (.inr (.inr (.inr ⟨no, v, rest, hh, hne, h10, h.symm⟩)))))

end Sys2Proof.Machine
end

