-- ==== Sys2Proof/Laws/HostApi.lean ====
section
/-! SUPPORT. What the host programs of rule R83 answer: each read of a register returns what hostRead gives, each
command its own outcome, and for_each_descriptor always leaves its loop. -/

namespace Sys2Proof.Machine

theorem runMoves_nil (s : State) : runMoves [] s = .next { s with host := [] } := rfl

/-- The moves after the first are served from the state the first one leaves. -/
theorem runMoves_cons {m : HostMove} {ms : List HostMove} {s t : State}
    (h : step { s with host := m :: ms } = .next t) (ht : t.host = ms) : runMoves (m :: ms) s = runMoves ms t := by
  subst ht
  have h' : Sys2Proof.core.step { s with host := m :: t.host } = .next t := h
  simp only [runMoves, List.length_cons, Host.Core.run, h']
  rfl

/-- What the host reads does not depend on its own moves. -/
theorem hostRead_host (no : Nat) (s : State) (ms : List HostMove) : hostRead no { s with host := ms } = hostRead no s := by
  unfold hostRead
  cases regOfNo no with
  | none => rfl
  | some r => cases r <;> rfl

theorem issueCommand_encode (i : Instr) (s : State) : issueCommand (encode i) s = exec i s := by
  cases i <;> rfl

/-- A command as the host's only move. -/
theorem runMoves_cmd (i : Instr) (s : State) : runMoves [cmdMove (encode i)] s = exec i { s with host := [] } := by
  have hs : step { s with host := [cmdMove (encode i)] } = exec i { s with host := [] } := by
    cases i <;> rfl
  have hc : Sys2Proof.core.step { s with host := [cmdMove (encode i)] } = exec i { s with host := [] } := hs
  simp only [runMoves, List.length_singleton, Host.Core.run, hc]
  cases exec i { s with host := [] } <;> rfl

/-- A register read as the host's only move. -/
theorem runMoves_read (no : Nat) (s : State) :
    runMoves [.read no] s = .next { s with host := [], readData := hostRead no s } :=
  congrArg (fun v => Host.Outcome.next ({ s with host := [], readData := v } : State)) (hostRead_host no s [])

/-- A register read goes back to the register's own width. -/
theorem setWidth_back {w : Nat} (hw : w ≤ 1024) (v : BitVec w) : (v.setWidth 1024).setWidth w = v := by
  rw [BitVec.setWidth_setWidth_of_le _ hw, BitVec.setWidth_eq]

section
variable {α : Type}

@[simp] theorem andThen_of_next (t : State) (k : State → Reply α) : andThen (.next t) k = k t := rfl

theorem andThen_next {a : Answer} {k : State → Reply α} {r : α × State} (h : andThen a k = .next r) :
    ∃ t, a = .next t ∧ k t = .next r := by
  cases a with
  | next t => exact ⟨t, rfl, h⟩
  | fault f => cases h
  | refused f => cases h

theorem rd_eq (no : Nat) (s : State) (k : BitVec 1024 → State → Reply α) :
    rd no s k = k (hostRead no s) { s with host := [], readData := hostRead no s } := by
  rw [rd, runMoves_read]; rfl

/-- A read of a register that holds v. -/
theorem rd_of {w : Nat} {no : Nat} {s : State} {v : BitVec w} (h : hostRead no s = v.setWidth 1024)
    (k : BitVec 1024 → State → Reply α) :
    rd no s k = k (v.setWidth 1024) { s with host := [], readData := v.setWidth 1024 } := by
  rw [rd_eq, h]

/-- A read of a 32-bit register that holds v. -/
theorem rdWord_of {no : Nat} {s : State} {v : Word} (h : hostRead no s = v.setWidth 1024)
    (k : Word → State → Reply α) :
    rdWord no s k = k v { s with host := [], readData := v.setWidth 1024 } := by
  rw [rdWord, rd_of h, setWidth_back (by decide)]

/-- The error an operation leaves with is STATUS's, with ERR0 and ERR1 as they stand. -/
theorem leaveWithError_eq (status : Word) (s : State) :
    (leaveWithError status s : Reply (ApiEnd α)) =
      .next (.error status s.err0 s.err1, { s with host := [], readData := s.err1.setWidth 1024 }) := by
  rw [leaveWithError, rdWord_of (v := s.err0) rfl, rdWord_of (v := s.err1) rfl]

/-- RD HDR_* returns the six header registers as they stand. -/
theorem rdHeader_eq (s : State) (k : HeaderValue → State → Reply α) :
    rdHeader s k = k ⟨s.hdrMagic, s.hdrSize, s.hdrCrc, s.hdrVersion, s.hdrFirst, s.hdrVstr⟩
      { s with host := [], readData := s.hdrVstr } := by
  rw [rdHeader, rdWord_of (v := s.hdrMagic) rfl, rdWord_of (v := s.hdrSize) rfl, rdWord_of (v := s.hdrCrc) rfl,
    rdWord_of (v := s.hdrVersion) rfl, rdWord_of (v := s.hdrFirst) rfl, rd_eq]
  rfl

/-- RD DESC_TYPE, RD DESC_PAYOFF, RD DESC_PAYSIZE return the view as it stands. -/
theorem rdView_eq (s : State) (k : DescView → State → Reply α) :
    rdView s k = k ⟨s.descType, s.descPayoff, s.descPaysize⟩
      { s with host := [], readData := s.descPaysize.setWidth 1024 } := by
  rw [rdView, rd_of (v := s.descType) rfl, setWidth_back (by decide), rdWord_of (v := s.descPayoff) rfl,
    rdWord_of (v := s.descPaysize) rfl]

/-- One turn of the host's loop around WALK_NEXT, the command answering t. -/
theorem forEachLoop_turn (visit : DescView → α → α × Bool) (n : Nat) (a : α) {s t : State}
    (h : exec .walkNext { s with host := [] } = .next t) :
    forEachLoop visit (n + 1) a s =
      if t.status = Code.ok.word then
        if (visit ⟨t.descType, t.descPayoff, t.descPaysize⟩ a).2 then
          andThen (exec .walkStop { t with host := [], readData := t.descPaysize.setWidth 1024 }) fun w =>
            .next (.ok (visit ⟨t.descType, t.descPayoff, t.descPaysize⟩ a).1, w)
        else
          forEachLoop visit n (visit ⟨t.descType, t.descPayoff, t.descPaysize⟩ a).1
            { t with host := [], readData := t.descPaysize.setWidth 1024 }
      else if t.status = Code.chainEnd.word then
        .next (.ok a, { t with host := [], readData := t.status.setWidth 1024 })
      else .next (.error t.status t.err0 t.err1, { t with host := [], readData := t.err1.setWidth 1024 }) := by
  rw [forEachLoop, runMoves_cmd, h, andThen_of_next, rdWord_of (v := t.status) rfl]
  by_cases hs : t.status = Code.ok.word
  · rw [if_pos hs, if_pos hs, rdView_eq]
    simp only [runMoves_cmd]
  · rw [if_neg hs, if_neg hs, leaveWithError_eq]

end

/-- What find_descriptor answers, the command answering t (rules R83, R168). -/
theorem apiFind_eq (uuid : List Byte) {s t : State}
    (h : exec .find { s with host := [], ftype := uuidOfBytes uuid } = .next t) :
    ∃ u, apiFind uuid s = .next
      (if t.status = Code.ok.word then .ok (some (bufBytes t t.descPayoff.toNat t.descPaysize.toNat))
        else if t.status = Code.notFound.word then .ok none
        else .error t.status t.err0 t.err1, u) := by
  have hm : runMoves [.write 0x12 (uuidOfBytes uuid).toNat, cmdMove (encode .find)] s = .next t := by
    refine (runMoves_cons (t := { s with
      host := [cmdMove (encode .find)], ftype := BitVec.ofNat 128 (uuidOfBytes uuid).toNat }) rfl rfl).trans ?_
    rw [runMoves_cmd, BitVec.ofNat_toNat, BitVec.setWidth_eq]
    exact h
  rw [apiFind, hm, andThen_of_next, rdWord_of (v := t.status) rfl]
  by_cases h0 : t.status = Code.ok.word
  · rw [if_pos h0, rdWord_of (v := t.descPayoff) rfl, rdWord_of (v := t.descPaysize) rfl]
    rw [if_pos h0]
    exact ⟨_, congrArg (fun bs => Host.Outcome.next (ApiEnd.ok (some bs), _)) (bufBytes_congr (s := t) (by rfl) _ _)⟩
  rw [if_neg h0]
  by_cases h1 : t.status = Code.notFound.word
  · exact ⟨_, by rw [if_pos h1, if_neg h0, if_pos h1]⟩
  · exact ⟨_, by rw [if_neg h1, leaveWithError_eq, if_neg h0, if_neg h1]⟩

/-- What validate_header answers, PDS_VALIDATE answering t on the buffer the host has placed (rules R83, R152). -/
theorem apiValidateHeader_eq (bs : List Byte) {s t : State}
    (h : runMoves (setBuffer bs ++ [cmdMove (encode .pdsValidate)]) s = .next t) :
    ∃ u, apiValidateHeader bs s = .next
      (if t.status = Code.ok.word then
          .ok ⟨t.hdrMagic, t.hdrSize, t.hdrCrc, t.hdrVersion, t.hdrFirst, t.hdrVstr⟩
        else .error t.status t.err0 t.err1, u) := by
  rw [apiValidateHeader, h, andThen_of_next, rdWord_of (v := t.status) rfl]
  by_cases h0 : t.status = Code.ok.word
  · exact ⟨_, by rw [if_pos h0, rdHeader_eq, if_pos h0]⟩
  · exact ⟨_, by rw [if_neg h0, leaveWithError_eq, if_neg h0]⟩

/-- The host leaves its loop within the turns WMAX leaves it: each turn but the last counts one yield in WCNT. -/
theorem forEachLoop_ends {α : Type} (visit : DescView → α → α × Bool) :
    ∀ (n : Nat) (a : α) (s : State) (e : ApiEnd α) (t : State), 0 < n → s.wmax.toNat < s.wcnt.toNat + n →
      (s.aborted = true → s.status = Code.aborted.word) → forEachLoop visit n a s = .next (e, t) → e ≠ .looping := by
  intro n
  induction n with
  | zero => intro a s e t hn; exact absurd hn (by decide)
  | succ n ih =>
    intro a s e t _ hcap hab h
    have hw : ∃ u, exec .walkNext { s with host := [] } = .next u := by
      rw [forEachLoop, runMoves_cmd] at h
      obtain ⟨u, hu, -⟩ := andThen_next h
      exact ⟨u, hu⟩
    obtain ⟨u, hu⟩ := hw
    rw [forEachLoop_turn visit n a hu] at h
    split at h
    · next hs =>
      split at h
      · obtain ⟨w, -, h⟩ := andThen_next h
        injection h with h; injection h with h _
        rw [← h]; simp
      · rcases Bool.eq_false_or_eq_true s.aborted with ha | ha
        · rw [exec_of_aborted _ (by exact ha)] at hu
          injection hu with hu
          subst hu
          exact absurd ((hab ha).symm.trans hs) (by decide)
        · rcases execWalkNext_next (s := { s with host := [] }) ha hu with
            ⟨-, rfl⟩ | ⟨-, -, rfl⟩ | ⟨c, _, _, -, hc, hd, rfl⟩ | ⟨_, _, _, _, -, -, hd, rfl⟩
          · exact absurd (Code.word_inj hs) (by decide)
          · exact absurd (Code.word_inj hs) (by decide)
          · exact absurd (Code.word_inj hs) (descCheck_error hd).1
          · have hlt : s.wcnt.toNat < s.wmax.toNat := (descCheck_view hd).1
            have hcnt : (s.wcnt + 1#32).toNat = s.wcnt.toNat + 1 := by
              have := s.wmax.isLt
              simp only [BitVec.toNat_add, BitVec.toNat_ofNat]
              omega
            refine ih _ _ e t (by omega) ?_ ?_ h
            · show s.wmax.toNat < (s.wcnt + 1#32).toNat + n
              omega
            · exact fun h' => absurd (ha.symm.trans h') (by decide)
    split at h
    · injection h with h; injection h with h _
      rw [← h]; simp
    · injection h with h; injection h with h _
      rw [← h]; simp

/-- for_each_descriptor always leaves its loop (rule R222), in every state where ABORTED = 1 means STATUS = 0xFF
(rule R47). -/
theorem apiForEach_ends {α : Type} (max : Word) (visit : DescView → α → α × Bool) (a : α) {s t : State} {e : ApiEnd α}
    (hab : s.aborted = true → s.status = Code.aborted.word) (h : apiForEach max visit a s = .next (e, t)) :
    e ≠ .looping := by
  obtain ⟨u, hu, h⟩ := andThen_next h
  refine forEachLoop_ends visit _ a u e t (by omega) (by omega) ?_ h
  rw [runMoves_cons (t := { s with
    host := [cmdMove (encode .walkStart)], maxdesc := BitVec.ofNat 32 max.toNat }) rfl rfl, runMoves_cmd] at hu
  rcases Bool.eq_false_or_eq_true s.aborted with ha | ha
  · rw [exec_of_aborted _ (by exact ha)] at hu
    injection hu with hu
    subst hu
    exact hab
  · intro hu'
    rcases execWalkStart_next (by exact ha) hu with ⟨-, rfl⟩ | ⟨-, rfl⟩ <;> exact absurd (ha.symm.trans hu') (by decide)

end Sys2Proof.Machine
end

