-- ==== Sys2Proof/Laws/PerInstr.lean ====
section
/-! SUPPORT. Statements made command by command. EncodeWordWellFormed: the word of a command is well-formed and its
bits 31:8 are 0 (rules R70, R71). -/

namespace Sys2Proof.Laws.EncodeWordWellFormed

/-- The word of i is none of rule R72's illegal words. -/
def Statement (i : Instr) : Prop := wordWellFormed (encode i) = true ∧ rsvdField (encode i) = 0#24

theorem keyexp80 : Statement .keyexp80 := by unfold Statement; decide
theorem keyexp128 : Statement .keyexp128 := by unfold Statement; decide
theorem enc : Statement .enc := by unfold Statement; decide
theorem dec : Statement .dec := by unfold Statement; decide
theorem dgInit : Statement .dgInit := by unfold Statement; decide
theorem dgBlock : Statement .dgBlock := by unfold Statement; decide
theorem dgFinal : Statement .dgFinal := by unfold Statement; decide
theorem dgBuf : Statement .dgBuf := by unfold Statement; decide
theorem scramble : Statement .scramble := by unfold Statement; decide
theorem unscramble : Statement .unscramble := by unfold Statement; decide
theorem pdsValidate : Statement .pdsValidate := by unfold Statement; decide
theorem walkStart : Statement .walkStart := by unfold Statement; decide
theorem walkNext : Statement .walkNext := by unfold Statement; decide
theorem walkStop : Statement .walkStop := by unfold Statement; decide
theorem find : Statement .find := by unfold Statement; decide

end Sys2Proof.Laws.EncodeWordWellFormed
end

