-- ==== Sys2Proof/Tests/Slice0.lean ====
section
/-! SUPPORT. The model's own tests, one step each. Every expected value is from 95_test_vectors.md (S and V vectors,
PRG programs) or from a rule's worked example, named in the theorem's docstring; the witnesses at the end show states
that meet the hypotheses of the statements in Certificates/Slice0/Obligations.lean. -/

set_option Elab.async false

namespace Sys2Proof.Tests

open Sys2Proof.Machine

/-- The answer is a next state with this property. -/
def gives (a : Answer) (p : State → Bool) : Bool :=
  match a with
  | .next t => p t
  | .fault _ => false
  | .refused _ => false

/-- What `gives` says. -/
theorem gives_next {a : Answer} {p : State → Bool} (h : gives a p = true) : ∃ t, a = .next t ∧ p t = true := by
  cases a with
  | next t => exact ⟨t, rfl, h⟩
  | fault f => cases h
  | refused r => cases h

/-- The contents of BUF with these bytes from offset 0, in canonical form. -/
def memOf (bs : List Byte) : Memory := (bs.zipIdx.filter fun p => p.1 != 0#8).map fun p => (p.2, p.1)

/-- "PDS test v1" padded with NUL to 128 bytes (section 2.8). -/
def versionString : List Byte :=
  [0x50#8, 0x44#8, 0x53#8, 0x20#8, 0x74#8, 0x65#8, 0x73#8, 0x74#8, 0x20#8, 0x76#8, 0x31#8] ++ List.replicate 117 0#8

/-- Store A, 148 bytes (section 2.8). -/
def storeA : List Byte :=
  [0x31#8, 0x53#8, 0x44#8, 0x50#8, 0x94#8, 0#8, 0#8, 0#8, 0x95#8, 0x93#8, 0x7F#8, 0xD7#8, 1#8, 0#8, 0#8, 0#8] ++
  [0#8, 0#8, 0#8, 0#8] ++ versionString

/-- The three descriptors and payloads of store B, from offset 148 (section 2.8). -/
def chainB : List Byte :=
  [0x20#8, 0#8, 0#8, 0#8, 0xF4#8, 0#8, 0#8, 0#8, 4#8, 0#8, 0#8, 0#8, 0xB4#8, 0#8, 0#8, 0#8] ++
  (List.range 16).map (fun j => BitVec.ofNat 8 (0x10 + j)) ++
  [0x20#8, 0#8, 0#8, 0#8, 0xF8#8, 0#8, 0#8, 0#8, 8#8, 0#8, 0#8, 0#8, 0xD4#8, 0#8, 0#8, 0#8] ++
  (List.range 16).map (fun j => BitVec.ofNat 8 (0x20 + j)) ++
  [0x20#8, 0#8, 0#8, 0#8, 0#8, 1#8, 0#8, 0#8, 3#8, 0#8, 0#8, 0#8, 0#8, 0#8, 0#8, 0#8] ++
  (List.range 16).map (fun j => BitVec.ofNat 8 (0x30 + j)) ++
  [0xDE#8, 0xAD#8, 0xBE#8, 0xEF#8, 1#8, 2#8, 3#8, 4#8, 5#8, 6#8, 7#8, 8#8, 0xAA#8, 0xBB#8, 0xCC#8]

/-- Store B, 259 bytes (section 2.8). -/
def storeB : List Byte :=
  [0x31#8, 0x53#8, 0x44#8, 0x50#8, 0x94#8, 0#8, 0#8, 0#8, 0xA4#8, 0xCC#8, 0x74#8, 0x0D#8, 1#8, 0#8, 0#8, 0#8] ++
  [0x94#8, 0#8, 0#8, 0#8] ++ versionString ++ chainB

/-- U1, U2, U3, U4 (section 2.8). -/
def u1 : Quad := 0x1F1E1D1C1B1A19181716151413121110#128
def u2 : Quad := 0x2F2E2D2C2B2A29282726252423222120#128
def u3 : Quad := 0x3F3E3D3C3B3A39383736353433323130#128
def u4 : Quad := 0x4F4E4D4C4B4A49484746454443424140#128

/-- After reset, with store A and its length in place. -/
def withA : State := { State.reset with buf := memOf storeA, buflen := 148#32 }

/-- After reset, with store B and its length in place. -/
def withB : State := { State.reset with buf := memOf storeB, buflen := 259#32 }

/-- withB with the header registers PDS_VALIDATE fills (PRG3 line 3), but for the version string. -/
def validB : State := { withB with
  hdrv := true, hdrMagic := 0x50445331#32, hdrSize := 148#32, hdrCrc := 0x0D74CCA4#32, hdrVersion := 1#32,
  hdrFirst := 148#32 }

/-- validB after WALK_START (PRG3 line 4). -/
def walkB : State := { validB with wact := true, wfirst := true, wcur := 148#32, wmax := 32#32 }

/-- walkB after the first yield (PRG3 line 5, pass 1). -/
def walkB1 : State := { walkB with wfirst := false, wcur := 180#32, wprev := 148#32, wcnt := 1#32 }

/-- A byte of store B changed. -/
def poke (off : Nat) (v : Byte) (s : State) : State := { s with buf := Memory.write s.buf off v }

/-- CORE aborted (rule R186). -/
def abortedCore : State := { State.reset with aborted := true, status := 0xFF#32 }

/-! Well-formedness and decoding. -/

/-- V-SEQ-1: opcode 3 with bit 8 set is refused by the check and by the decoder. -/
theorem test_wf_reserved_bit : wordWellFormed 0x00000103#32 = false ∧ reservedBitsClear 0x00000103#32 = false := by
  decide

/-- V-SEQ-1: opcode 5 is unassigned, and so is opcode 0. -/
theorem test_wf_unassigned_opcode : wordWellFormed 0x00000005#32 = false ∧ opcodeAssigned 0x00000005#32 = false ∧
    wordWellFormed 0x00000000#32 = false := by decide

/-- V-SEQ-1: the decoder rejects the four words by name. -/
theorem test_decode_rejects : decode 0x00000103#32 = .rejected .reservedBitsSet ∧
    decode 0xFFFFFFFF#32 = .rejected .reservedBitsSet ∧ decode 0x00000000#32 = .rejected .unassignedOpcode ∧
    decode 0x00000005#32 = .rejected .unassignedOpcode := by decide

/-- Rule R71, cipher family: bits written out. -/
theorem test_decode_cipher : decode 0b00000000000000000000000000000001#32 = .instr .keyexp80 ∧
    decode 0b00000000000000000000000000000010#32 = .instr .keyexp128 ∧
    decode 0b00000000000000000000000000000011#32 = .instr .enc ∧
    decode 0b00000000000000000000000000000100#32 = .instr .dec := by decide

/-- Rule R71, digest family. -/
theorem test_decode_digest : decode 0b00000000000000000000000000001000#32 = .instr .dgInit ∧
    decode 0b00000000000000000000000000001001#32 = .instr .dgBlock ∧
    decode 0b00000000000000000000000000001010#32 = .instr .dgFinal ∧
    decode 0b00000000000000000000000000001011#32 = .instr .dgBuf := by decide

/-- Rule R71, scramble family. -/
theorem test_decode_scramble : decode 0b00000000000000000000000000010000#32 = .instr .scramble ∧
    decode 0b00000000000000000000000000010001#32 = .instr .unscramble := by decide

/-- Rule R71, validator and walker. -/
theorem test_decode_store : decode 0b00000000000000000000000000100000#32 = .instr .pdsValidate ∧
    decode 0b00000000000000000000000000101000#32 = .instr .walkStart ∧
    decode 0b00000000000000000000000000101001#32 = .instr .walkNext ∧
    decode 0b00000000000000000000000000101010#32 = .instr .walkStop ∧
    decode 0b00000000000000000000000000101011#32 = .instr .find := by decide

/-- The host's two names on one word. -/
theorem test_table_word : decodeTableWord 32 0x29 = some .walkNext ∧ decodeTableWord 32 0x103 = none := by decide

/-- A stored word runs as the first command after reset: DG_INIT sets DGACT (rule R124). -/
theorem test_with_fetch_word : gives (step (State.reset.withFetchWord 32 0x08)) (fun t => t.dgact) = true := by
  decide +kernel

/-! The pure functions. -/

/-- V-LAY-3, V-LAY-6, V-LAY-8, V-LAY-12. -/
theorem test_layers : invSubLayer 0x0123456789ABCDEF#64 = 0x5EF8C12DB463079A#64 ∧
    invPermLayer 0x0123456789ABCDEF#64 = 0x3500350F35F035FF#64 ∧
    invPermLayer 0x000000000000FFFF#64 = 0x1111111111111111#64 ∧
    permLayer 0xCCCCCCCCCCCCCCCC#64 = 0xFFFFFFFF00000000#64 := by decide +kernel

/-- V-CRC-4, V-CRC-6, V-CRC-7, V-CRC-8. -/
theorem test_crc : crc [0x80#8] = 0x690CE0EE#32 ∧ crc [1#8, 0#8, 0#8, 0#8] = 0xDC6D9AB7#32 ∧
    crc [0#8, 0#8, 0#8, 1#8] = 0x04C11DB7#32 ∧
    crc [0x31#8, 0x32#8, 0x33#8, 0x34#8, 0x35#8, 0x36#8, 0x37#8, 0x38#8, 0x39#8] = 0x89A1897F#32 := by
  decide +kernel

/-- V-DIG-11 and V-DIG-12: the order inside a pair matters, a lone block pairs with itself. -/
theorem test_digest_order : digest [1#64, 2#64] 0#64 0#128 = 0x0CBD502819291E43#64 ∧
    digest [2#64, 1#64] 0#64 0#128 = 0x85494EFA34ECF0DD#64 ∧ digest [0#64] 0#64 0#128 = 0x29C921D837891437#64 := by
  decide +kernel

/-- S6: key bytes in memory order ef cd ab 89 67 45 23 01, twice, are the integer K (rule R76). -/
theorem test_key_of_bytes : keyOfBytes [0xEF#8, 0xCD#8, 0xAB#8, 0x89#8, 0x67#8, 0x45#8, 0x23#8, 0x01#8,
    0xEF#8, 0xCD#8, 0xAB#8, 0x89#8, 0x67#8, 0x45#8, 0x23#8, 0x01#8] = 0x0123456789ABCDEF0123456789ABCDEF#128 := by
  decide +kernel

/-! The commands, at most two tests each. -/

/-- V-CIP-12: KEYIN[127:80] is ignored; KEYIN is consumed; V-KS-1's last two round keys. -/
theorem test_keyexp80_ignores_high_bits :
    gives (exec .keyexp80 { State.reset with keyin := 0xDEADBEEFCAFE00000000000000000000#128 }) (fun t =>
      t.rk[30] == 0x8BA27A0EB8783AC9#64 && t.rk[31] == 0x6DAB31744F41D700#64 && t.keyin == 0#128 && t.rkv) = true := by
  decide +kernel

/-- V-KS-3: the key bytes 00 01 ... 09. -/
theorem test_keyexp80_order :
    gives (exec .keyexp80 { State.reset with keyin := 0x09080706050403020100#128 }) (fun t =>
      t.rk[0] == 0x0908070605040302#64 && t.rk[1] == 0x9020012100E0C0A0#64 && t.rk[31] == 0x69B7D7747359C7F0#64)
      = true := by decide +kernel

/-- V-KS-7: the key bytes 00 01 ... 0f. -/
theorem test_keyexp128 :
    gives (exec .keyexp128 { State.reset with keyin := 0x0F0E0D0C0B0A09080706050403020100#128 }) (fun t =>
      t.rk[1] == 0xCCE0C0A080604020#64 && t.rk[31] == 0x9DAF5D8ADDA5584B#64 && t.keyin == 0#128 && t.rkv) = true := by
  decide +kernel

/-- S3. -/
theorem test_enc : gives (exec .enc { State.reset with
      rk := expand128 0#128, rkv := true, blkin := 0xFFFFFFFFFFFFFFFF#64 })
    (fun t => t.blkout == 0x3C6019E5E5EDD563#64 && t.status == 0#32) = true := by decide +kernel

/-- S1 under the short key; V-CIP-11: without a schedule ENC is refused. -/
theorem test_enc_short_key : gives (exec .enc { State.reset with rk := expand80 0#80, rkv := true })
      (fun t => t.blkout == 0x5579C1387B228445#64) = true ∧
    gives (exec .enc { State.reset with blkout := 7#64 }) (fun t => t.status == 0x20#32 && t.blkout == 7#64) = true := by
  decide +kernel

/-- V-CIP-5: DEC of a block that is no image of a test's ENC. -/
theorem test_dec : gives (exec .dec { State.reset with
      rk := expand80 0x09080706050403020100#80, rkv := true, blkin := 0x0123456789ABCDEF#64 })
    (fun t => t.blkout == 0xBF853ADCDEB76F1E#64) = true := by decide +kernel

/-- Rule R124, worked example, from a state with a block held. -/
theorem test_dg_init : gives (exec .dgInit { State.reset with
      dgiv := 0x0123456789ABCDEF#64, dgact := true, holdv := true, hold := 9#64, dgout := 3#64 })
    (fun t => t.acc == 0x0123456789ABCDEF#64 && flagsWord t == 2#32 && t.hold == 0#64 && t.dgout == 3#64) = true := by
  decide +kernel

/-- Rule R125, worked example, second block: the held block is the low half. -/
theorem test_dg_block_pair : gives (exec .dgBlock { State.reset with
      dgact := true, holdv := true, hold := 0x0706050403020100#64, blkin := 0x0F0E0D0C0B0A0908#64 })
    (fun t => t.acc == 0x2FFA424B30EF55B4#64 && flagsWord t == 2#32 && t.hold == 0#64) = true := by decide +kernel

/-- Rule R125, worked example, first block; V-DIG-14. -/
theorem test_dg_block_first : gives (exec .dgBlock { State.reset with dgact := true, blkin := 0x0706050403020100#64 })
      (fun t => t.acc == 0#64 && flagsWord t == 6#32 && t.hold == 0x0706050403020100#64) = true ∧
    gives (exec .dgBlock { State.reset with blkin := 1#64 })
      (fun t => t.status == 0x21#32 && flagsWord t == 0#32 && t.hold == 0#64) = true := by decide +kernel

/-- PRG2 line 8: odd count, self-pairing, then the constant. -/
theorem test_dg_final : gives (exec .dgFinal { State.reset with
      dgact := true, holdv := true, acc := 0x96AC3D820D6606A9#64, hold := 0x1716151413121110#64,
      dgconst := 0xFEDCBA98765432100123456789ABCDEF#128 })
    (fun t => t.dgout == 0x71EC1F39518643F1#64 && flagsWord t == 0#32 && t.acc == 0#64 && t.hold == 0#64) = true := by
  decide +kernel

/-- V-DIG-1: no data block. -/
theorem test_dg_final_empty : gives (exec .dgFinal { State.reset with dgact := true })
    (fun t => t.dgout == 0x96DB702A2E6900AF#64) = true := by decide +kernel

/-- V-DIG-9: 24 bytes 00 01 ... 17. -/
theorem test_dg_buf : gives (exec .dgBuf { State.reset with
      buf := memOf ((List.range 24).map fun j => BitVec.ofNat 8 j), buflen := 24#32, dgiv := 0x0123456789ABCDEF#64,
      dgconst := 0xFEDCBA98765432100123456789ABCDEF#128 })
    (fun t => t.dgout == 0x71EC1F39518643F1#64 && t.status == 0#32) = true := by decide +kernel

/-- V-DIG-15: a length that is no multiple of 8 aborts. -/
theorem test_dg_buf_abort : gives (exec .dgBuf { State.reset with buflen := 20#32, dgout := 5#64 })
    (fun t => t.status == 0xFF#32 && flagsWord t == 0x40#32 && t.dgout == 5#64) = true := by decide +kernel

/-- V-SCR-1. -/
theorem test_scramble : gives (exec .scramble { State.reset with
      keyin := 0x0123456789ABCDEF0123456789ABCDEF#128, blkin := 0x0123456789ABCDEF#64 })
    (fun t => t.blkout == 0x0E9D28685E671DD6#64 && t.keyin == 0#128 && !t.rkv) = true := by decide +kernel

/-- V-SCR-3: the consumed key is 0. -/
theorem test_unscramble : gives (exec .unscramble { State.reset with blkin := 0x0E9D28685E671DD6#64 })
    (fun t => t.blkout == 0x0E38309568BF1075#64) = true := by decide +kernel

/-- V-VAL-24, and the 128 bytes of the version string. -/
theorem test_pds_validate : gives (exec .pdsValidate withB) (fun t =>
      t.status == 0#32 && flagsWord t == 8#32 && t.hdrFirst == 0x94#32 && t.hdrCrc == 0x0D74CCA4#32 &&
      t.hdrSize == 148#32 && t.hdrVersion == 1#32 && t.hdrVstr == leBits 1024 versionString) = true := by
  decide +kernel

/-- V-VAL-6, V-VAL-20, V-VAL-14: found and computed values; the magic before the version; the size against BUFLEN. -/
theorem test_pds_validate_errors :
    gives (exec .pdsValidate (poke 20 0x51#8 withA)) (fun t =>
      t.status == 5#32 && t.err0 == 0xD77F9395#32 && t.err1 == 0xBF68A05C#32 && !t.hdrv) = true ∧
    gives (exec .pdsValidate (poke 12 0#8 (poke 0 0#8 withA))) (fun t =>
      t.status == 2#32 && t.err0 == 0x50445300#32 && t.err1 == 0x50445331#32) = true ∧
    gives (exec .pdsValidate (poke 4 0x95#8 withA)) (fun t => t.status == 1#32 && t.err0 == 0#32) = true := by
  decide +kernel

/-- Rule R162, worked example (PRG3 line 4). -/
theorem test_walk_start : gives (exec .walkStart validB) (fun t =>
    t.wcur == 148#32 && t.wprev == 0#32 && t.wcnt == 0#32 && t.wmax == 32#32 && flagsWord t == 0x38#32) = true := by
  decide +kernel

/-- V-WLK-1, first yield. -/
theorem test_walk_next : gives (exec .walkNext walkB) (fun t =>
    t.descType == u1 && t.descPayoff == 244#32 && t.descPaysize == 4#32 && t.wcur == 180#32 && t.wprev == 148#32 &&
    t.wcnt == 1#32 && flagsWord t == 0x18#32) = true := by decide +kernel

/-- V-WLK-14 (no wrap), V-WLK-23 (no wrap of the payload), V-WLK-7 (a link to itself). -/
theorem test_walk_next_errors :
    gives (exec .walkNext { walkB with wcur := 0xFFFFFFF0#32 }) (fun t =>
      t.status == 8#32 && t.err0 == 0xFFFFFFF0#32 && flagsWord t == 0x28#32) = true ∧
    gives (exec .walkNext { (poke 152 0xFF#8 (poke 153 0xFF#8 (poke 154 0xFF#8 (poke 155 0xFF#8 (poke 156 2#8 walkB)))))
      with wfirst := true }) (fun t => t.status == 0x0A#32 && t.err0 == 0xFFFFFFFF#32 && t.err1 == 2#32) = true ∧
    gives (exec .walkNext { walkB1 with wprev := 180#32 }) (fun t =>
      t.status == 7#32 && t.err0 == 0xB4#32 && t.err1 == 0#32) = true := by decide +kernel

/-- V-WLK-30. -/
theorem test_walk_stop : gives (exec .walkStop walkB1) (fun t => t.status == 0#32 && flagsWord t == 8#32) = true ∧
    gives (exec .walkStop validB) (fun t => t.status == 0x23#32) = true := by decide +kernel

/-- V-FND-3: the third descriptor, past two that do not match; FIND leaves the walker alone (V-FND-15). -/
theorem test_find : gives (exec .find { walkB1 with ftype := u3 }) (fun t =>
    t.status == 0#32 && t.descType == u3 && t.descPayoff == 256#32 && t.descPaysize == 3#32 && t.wcur == 180#32 &&
    t.wact) = true := by decide +kernel

/-- V-FND-4, V-FND-5. -/
theorem test_find_ends : gives (exec .find { validB with ftype := u4 }) (fun t => t.status == 0x11#32) = true ∧
    gives (exec .find { poke 192 0x94#8 validB with ftype := u3 }) (fun t =>
      t.status == 7#32 && t.err0 == 0x94#32) = true := by decide +kernel

/-- V-SEQ-1, V-SEQ-3, V-SEQ-4: an illegal word, a write to a read-only register, a BUFLEN write of the same value. -/
theorem test_host_moves :
    gives (step { validB with host := [.write 0x00 0x103] }) (fun t => t.status == 0x24#32 && t.hdrv) = true ∧
    gives (step { State.reset with host := [.write 0x0A 5] }) (fun t => t.blkout == 0#64) = true ∧
    gives (step { walkB with host := [.write 0x10 259] }) (fun t => !t.hdrv && !t.wact && t.buflen == 259#32) = true :=
  by decide +kernel

/-- V-SEQ-2 and V-CIP-14: what reads after reset return; KEYIN reads 0. -/
theorem test_host_reads : hostRead 0x11 State.reset = 32#1024 ∧ hostRead 0x04 { State.reset with rkv := true } = 1#1024 ∧
    hostRead 0x08 { State.reset with keyin := 5#128 } = 0#1024 ∧ hostRead 0x05 State.reset = 0#1024 := by
  decide +kernel

/-- What a host program answers its caller. -/
def replies {α : Type} [DecidableEq α] (r : Reply (ApiEnd α)) (e : ApiEnd α) : Bool :=
  match r with
  | .next (e', _) => e' == e
  | .fault _ => false
  | .refused _ => false

/-- Rule R83, validate_header: store A placed by the host (V-VAL-8), and a buffer of 4 bytes (rule R189). -/
theorem test_api_validate_header :
    replies (apiValidateHeader storeA State.reset)
      (.ok ⟨0x50445331#32, 148#32, 0xD77F9395#32, 1#32, 0#32, leBits 1024 versionString⟩) = true ∧
    replies (apiValidateHeader (storeA.take 4) State.reset) (.error 0x01#32 0#32 0#32) = true := by decide +kernel

/-- Rule R83, for_each_descriptor on store B (P6, PRG3): all three views in chain order; a stop at the first; a cap of 2,
which is an error after two visits (V-WLK-2). -/
theorem test_api_for_each :
    replies (apiForEach 32#32 (fun v a => (a ++ [v], false)) [] validB)
      (.ok [⟨u1, 244#32, 4#32⟩, ⟨u2, 248#32, 8#32⟩, ⟨u3, 256#32, 3#32⟩]) = true ∧
    replies (apiForEach 32#32 (fun v a => (a ++ [v], true)) [] validB) (.ok [⟨u1, 244#32, 4#32⟩]) = true ∧
    replies (apiForEach 2#32 (fun v a => (a ++ [v], false)) [] validB) (.error 0x06#32 0#32 0#32) = true := by
  decide +kernel

/-- Rule R83, find_descriptor on store B (V-FND-3, V-FND-4): the exact payload bytes, and an unregistered type; a header
that was not validated (rule R166). -/
theorem test_api_find :
    replies (apiFind ((List.range 16).map fun j => BitVec.ofNat 8 (0x30 + j)) validB)
      (.ok (some [0xAA#8, 0xBB#8, 0xCC#8])) = true ∧
    replies (apiFind ((List.range 16).map fun j => BitVec.ofNat 8 (0x40 + j)) validB) (.ok none) = true ∧
    replies (apiFind [] withB) (.error 0x22#32 0#32 0#32) = true := by decide +kernel

/-! Witnesses: for every statement with hypotheses, states that meet them; for a statement of several clauses, one for
each clause, at the edge of its range. -/

/-- DecodeEncodeAgree: the last opcode of the map. -/
theorem witness_DecodeEncodeAgree : decode 0x0000002B#32 = .instr .find := by decide

/-- IllegalWordsAreRefused, StepRunsDecodedInstruction. -/
theorem witness_words :
    ({ State.reset with host := [.write 0x00 0x0000002C] } : State).aborted = false ∧
    decode (BitVec.ofNat 32 0x0000002C) = .rejected .unassignedOpcode ∧
    decode (BitVec.ofNat 32 0x100000003) = .instr .enc := by decide

/-- QuietMovesChangeNothingElse: a byte placed at the first and at the last offset of a listed memory. -/
theorem witness_QuietMovesChangeNothingElse : State.reset.host = [] ∧ Memory.wf (memOf storeB) = true ∧
    ([0#32, 258#32, 0xFFFFFFFF#32].all fun off => [0#8, 1#8].all fun v =>
      gives (step { withB with host := [.place off v, .read 0x01] })
        (fun t => bufByte t off.toNat == v && Memory.wf t.buf && t.host == [.read 0x01])) = true := by decide +kernel

/-- HostAccessCornerCases: a value one bit wider than the register, for every clause; ignored numbers at the edges of
the map. -/
theorem witness_HostAccessCornerCases :
    gives (step { abortedCore with host := [.write 0x08 (2 ^ 128 + 1)] }) (fun t => t.keyin == 1#128) = true ∧
    gives (step { abortedCore with host := [.write 0x09 (2 ^ 64 + 1)] }) (fun t => t.blkin == 1#64) = true ∧
    gives (step { abortedCore with host := [.write 0x0B (2 ^ 64 + 1)] }) (fun t => t.dgiv == 1#64) = true ∧
    gives (step { abortedCore with host := [.write 0x0C (2 ^ 128 + 1)] }) (fun t => t.dgconst == 1#128) = true ∧
    gives (step { abortedCore with host := [.write 0x10 (2 ^ 32 + 1)] }) (fun t => t.buflen == 1#32) = true ∧
    gives (step { abortedCore with host := [.write 0x11 (2 ^ 32 + 1)] }) (fun t => t.maxdesc == 1#32) = true ∧
    gives (step { abortedCore with host := [.write 0x12 (2 ^ 128 + 1)] }) (fun t => t.ftype == 1#128) = true ∧
    ∀ no ∈ [0x01, 0x04, 0x05, 0x07, 0x0A, 0x0D, 0x0E, 0x0F, 0x13, 0x18, 0x22, 0x23, 2 ^ 32],
      gives (step { validB with host := [.write no 7] })
        (fun t => t.hdrFirst == 148#32 && t.hdrv && t.blkin == 0#64 && t.dgout == 0#64) = true := by decide +kernel

/-- HostAccessCornerCases, the clause on reads: the two WO registers, which hold a value, and unmapped numbers, in a
state that is about to read them. -/
theorem witness_HostAccessCornerCases_reads : ∀ no ∈ [0x00, 0x08, 0x05, 0x07, 0x0E, 0x23, 2 ^ 32],
    hostRead no { validB with keyin := 5#128 } = 0#1024 ∧
    gives (step { validB with keyin := 5#128, readData := 9#1024, host := [.read no] })
      (fun t => t.readData == 0#1024 && t.keyin == 5#128) = true := by decide +kernel

/-- BuflenWriteEndsHeaderAndWalk: the last readable offset and the first that is not. -/
theorem witness_BuflenWriteEndsHeaderAndWalk :
    ({ walkB with host := [.write 0x10 259] } : State).host = .write 0x10 259 :: [] ∧
    (memRead withB 258 1).isSome = true ∧ (memRead withB 259 1).isSome = false := by decide +kernel

/-- ResetMoveEffect. -/
theorem witness_ResetMoveEffect : resets { abortedCore with host := [.reset] } ∧
    gives (step { abortedCore with rkv := true, host := [.reset] }) (fun t => !t.aborted && !t.rkv) = true :=
  ⟨⟨[], rfl⟩, by decide +kernel⟩

/-- FlagsChangeOnlyByTheirEvents: every clause's change happens. -/
theorem witness_FlagsChangeOnlyByTheirEvents :
    gives (step { State.reset with host := [cmdMove 0x01#32] }) (fun t => t.rkv) = true ∧
    gives (step { State.reset with rkv := true, host := [.reset] }) (fun t => !t.rkv) = true ∧
    gives (step { State.reset with host := [cmdMove 0x08#32] }) (fun t => t.dgact) = true ∧
    gives (step { State.reset with dgact := true, host := [cmdMove 0x0A#32] }) (fun t => !t.dgact) = true ∧
    gives (step { State.reset with dgact := true, host := [cmdMove 0x09#32] }) (fun t => t.holdv) = true ∧
    gives (step { State.reset with dgact := true, holdv := true, host := [cmdMove 0x09#32] }) (fun t => !t.holdv)
      = true ∧
    gives (step { withB with host := [cmdMove 0x20#32] }) (fun t => t.hdrv && t.status == 0#32) = true ∧
    gives (step { validB with buflen := 4#32, host := [cmdMove 0x20#32] }) (fun t => !t.hdrv) = true ∧
    gives (step { validB with host := [cmdMove 0x28#32] }) (fun t => t.wact && t.wfirst) = true ∧
    gives (step { walkB with wcur := 0#32, host := [cmdMove 0x29#32] }) (fun t => !t.wact && t.status == 0x10#32)
      = true ∧
    gives (step { walkB with host := [cmdMove 0x29#32] }) (fun t => !t.wfirst && t.status == 0#32) = true ∧
    gives (step { State.reset with buflen := 4#32, host := [cmdMove 0x0B#32] }) (fun t => t.aborted) = true ∧
    gives (step { abortedCore with host := [.reset] }) (fun t => !t.aborted) = true := by decide +kernel

/-- AbortIsSticky: the smallest and the largest length that aborts; an ignored command; a write; a read. -/
theorem witness_AbortIsSticky :
    (1#32).toNat % 8 ≠ 0 ∧ (0xFFFFFFFF#32).toNat % 8 ≠ 0 ∧ abortedCore.aborted = true ∧
    gives (step { abortedCore with host := [cmdMove 0x08#32] }) (fun t => t.status == 0xFF#32 && !t.dgact) = true ∧
    gives (step { abortedCore with host := [.write 0x10 24] }) (fun t => t.buflen == 24#32 && t.aborted) = true ∧
    gives (step { abortedCore with host := [.read 0x01] }) (fun t => t.readData == 0xFF#1024) = true ∧
    gives (step { abortedCore with host := [.reset] }) (fun t => !t.aborted) = true := by decide +kernel

/-- StepKeepsInvariant, StepKeepsAcceptedHeader, StepKeepsWalkBound: an enumeration after its first yield meets all
three, and steps on. -/
theorem witness_invariants : walkB1.Inv ∧ walkB1.HeaderInv ∧ walkB1.WalkBound ∧
    gives (step { walkB1 with host := [cmdMove 0x29#32] }) (fun t => t.wcnt == 2#32 && t.wprev == 180#32) = true :=
  ⟨⟨by decide +kernel, ⟨.ok, by decide⟩, by decide, by decide, by decide, by decide, by decide, by decide⟩,
    ⟨by decide, by decide, by decide, by decide⟩, by unfold State.WalkBound; decide, by decide +kernel⟩

/-- CommandFrame, CoreNeverWritesBuffer: a command that answers a next state; a placed byte. -/
theorem witness_frames : gives (exec .walkNext walkB) (fun t => t.buf == walkB.buf && t.keyin == walkB.keyin) = true ∧
    gives (step { withB with host := [.place 0#32 0#8] }) (fun t => t.buf != withB.buf) = true := by decide +kernel

/-- MemReadLittleEndian: each width at the last offset it fits, and one past it. -/
theorem witness_MemReadLittleEndian : memRead withB 258 1 = some 0xCC#8 ∧ memRead withB 255 4 = some 0xCCBBAA08#32 ∧
    memRead withB 251 8 = some 0xCCBBAA0807060504#64 ∧ (memBytes withB 243 16).isSome = true ∧
    memRead withB 256 4 = none ∧ memBytes withB 0 260 = none ∧ (memBytes withB 259 0).isSome = true := by
  decide +kernel

/-- SubLayerNibbleByNibble, PermLayerMovesBits, Expand80KeyStates, Expand128KeyStates, EncRounds, DecRounds: the top
index of each range (V-LAY-1, V-LAY-10, V-KS-1, V-KS-4). -/
theorem witness_cipher_ranges : nib (subLayer 0#64) 15 = 0xC#4 ∧ (permLayer 0x4000000000000000#64).getLsbD 47 = true ∧
    (permLayer 0x8000000000000000#64).getLsbD 63 = true ∧ (expand80 0#80)[31] = 0x6DAB31744F41D700#64 ∧
    (expand128 0#128)[31] = 0x97534980AECED6B7#64 := by decide +kernel

/-- DecryptionInvertsEncryption, EncDecResult: a state with a schedule. -/
theorem witness_EncDecResult :
    gives (exec .enc { State.reset with rk := expand80 0#80, rkv := true }) (fun t => !t.aborted && t.rkv) = true := by
  decide +kernel

/-- Keyexp80Result, Keyexp128Result, EncDecNeedSchedule, ScrambleResult, DgInitResult, DigestNeedsInit: the state after
reset. -/
theorem witness_reset : State.reset.aborted = false ∧ State.reset.rkv = false ∧ State.reset.dgact = false := by decide

/-- KeyIsConsumed: each of the four operations answers a next state, from which each can run again. -/
theorem witness_KeyIsConsumed : ∀ i ∈ [Instr.keyexp80, .keyexp128, .scramble, .unscramble],
    gives (exec i { State.reset with keyin := 1#128 }) (fun t => t.keyin == 0#128 &&
      gives (exec i t) (fun u => u.status == 0#32)) = true := by decide +kernel

/-- UnscrambleInvertsScramble (V-SCR-1, V-SCR-2). -/
theorem witness_UnscrambleInvertsScramble :
    gives (exec .scramble { State.reset with keyin := 0x0123456789ABCDEF0123456789ABCDEF#128, blkin := 0x0123456789ABCDEF#64 })
      (fun t => gives (exec .unscramble { t with keyin := 0x0123456789ABCDEF0123456789ABCDEF#128, blkin := t.blkout })
        (fun w => w.blkout == 0x0123456789ABCDEF#64)) = true := by decide +kernel

/-- PairKeyHalves: two eight-byte halves. -/
theorem witness_PairKeyHalves : ((List.range 8).map fun j => BitVec.ofNat 8 j).length = 8 := by decide

/-- DigestCompressions: an even and an odd number of blocks. -/
theorem witness_DigestCompressions : 2 * 0 + 1 < [1#64, 2#64].length ∧ [1#64, 2#64].length % 2 = 0 ∧
    [0#64].length % 2 = 1 := by decide

/-- DgBlockResult, DgFinalResult: a digest in progress, with no block held and with one. -/
theorem witness_digest_in_progress :
    ∀ h ∈ [false, true], ({ State.reset with dgact := true, holdv := h } : State).aborted = false ∧
      ({ State.reset with dgact := true, holdv := h } : State).dgact = true ∧
      ({ State.reset with dgact := true, holdv := h } : State).holdv = h := by decide

/-- DgBufResult: the empty buffer and the longest. -/
theorem witness_DgBufResult : (0#32).toNat % 8 = 0 ∧ (0xFFFFFFF8#32).toNat % 8 = 0 ∧ State.reset.aborted = false ∧
    gives (exec .dgBuf State.reset) (fun t => t.dgout == 0x96DB702A2E6900AF#64) = true := by decide +kernel

/-- StreamingEqualsWholeBuffer: a buffer that holds the one block w0 (V-DIG-2). -/
theorem witness_StreamingEqualsWholeBuffer :
    ({ State.reset with buf := memOf ((List.range 8).map fun j => BitVec.ofNat 8 j), buflen := 8#32 } : State).buflen.toNat
      = 8 * [0x0706050403020100#64].length ∧
    u64At { State.reset with buf := memOf ((List.range 8).map fun j => BitVec.ofNat 8 j), buflen := 8#32 } (8 * 0)
      = [0x0706050403020100#64][0] ∧
    gives (runMoves (apiDigestStream [0x0706050403020100#64] 0#64 0#128) State.reset)
      (fun t => t.dgout == 0xE9361FCCB7477374#64) = true := by decide +kernel

/-- CrcDetectsByteChange (V-CRC-2, V-CRC-3): two bytes that differ. -/
theorem witness_CrcDetectsByteChange : (0#8 ≠ 1#8) ∧ crc ([] ++ 0#8 :: []) = 0#32 ∧ crc ([] ++ 1#8 :: []) = 0x04C11DB7#32 := by
  decide +kernel

/-- ValidateOutcome: each outcome at its edge (V-VAL-2, V-VAL-4, V-VAL-9, V-VAL-12, V-VAL-14, V-VAL-7, V-VAL-8). -/
theorem witness_ValidateOutcome :
    gives (exec .pdsValidate { withA with buflen := 147#32 }) (fun t => t.status == 1#32) = true ∧
    gives (exec .pdsValidate (poke 0 0x30#8 withA)) (fun t => t.status == 2#32 && t.err0 == 0x50445330#32) = true ∧
    gives (exec .pdsValidate (poke 12 0#8 withA)) (fun t => t.status == 3#32 && t.err1 == 1#32) = true ∧
    gives (exec .pdsValidate (poke 4 0x93#8 withA)) (fun t => t.status == 4#32 && t.err0 == 147#32) = true ∧
    gives (exec .pdsValidate (poke 4 0x95#8 withA)) (fun t => t.status == 1#32) = true ∧
    gives (exec .pdsValidate (poke 147 1#8 withA)) (fun t => t.status == 5#32 && t.err1 == 0xD3BE8E22#32) = true ∧
    gives (exec .pdsValidate withA) (fun t => t.status == 0#32 && t.hdrv) = true := by decide +kernel

/-- CorruptedHeaderIsRejected: the first and the last covered byte of store A. -/
theorem witness_CorruptedHeaderIsRejected : Memory.wf withA.buf = true ∧
    gives (exec .pdsValidate withA) (fun t => t.status == 0#32 && t.hdrSize == 148#32) = true ∧
    ([12#32, 147#32].all fun off =>
      2#8 != bufByte withA off.toNat && u32At (placeByte off 2#8 withA) 12 != 0#32) = true := by decide +kernel

/-- WalkStartResult, FindOutcome, FindResult, FindAgreesWithEnumeration: a validated header, not aborted; FindResult's
two clauses. -/
theorem witness_validated : validB.aborted = false ∧ validB.hdrv = true ∧ validB.hdrFirst ≠ 0#32 ∧
    validB.hdrFirst.toNat + 32 ≤ validB.buflen.toNat ∧ 32 ≤ (u32At validB validB.hdrFirst.toNat).toNat ∧
    (u32At validB (validB.hdrFirst.toNat + 4)).toNat + (u32At validB (validB.hdrFirst.toNat + 8)).toNat
      ≤ validB.buflen.toNat ∧
    u128At validB (validB.hdrFirst.toNat + 16) = u1 ∧
    gives (exec .find { validB with ftype := u1 }) (fun t => t.status == 0#32 && t.descPayoff == 244#32) = true ∧
    gives (exec .find { validB with hdrFirst := 0#32 }) (fun t => t.status == 0x11#32) = true := by decide +kernel

/-- WalkSequencingRefusals: no walk, no header, and a walk whose count is at the last value below the cap. -/
theorem witness_WalkSequencingRefusals : validB.wact = false ∧ withB.hdrv = false ∧
    gives (exec .walkStart validB) (fun t => t.wcnt == 0#32) = true ∧
    gives (exec .walkNext { walkB1 with wmax := 2#32 }) (fun t => t.wcnt == 2#32 && t.status == 0#32) = true ∧
    gives (exec .walkNext { walkB1 with wmax := 1#32 }) (fun t => t.wcnt == 1#32 && t.status == 6#32) = true := by
  decide +kernel

/-- DescCheckSteps: each step at its edge (V-WLK-2, V-WLK-7, V-WLK-12, V-WLK-15, V-WLK-25, V-WLK-24). -/
theorem witness_DescCheckSteps :
    descCheck withB 212#32 180#32 2 false 2 = some (.error .maxDescriptorsExceeded 0#32 0#32) ∧
    descCheck withB 180#32 180#32 2 false 32 = some (.error .descriptorLoop 0xB4#32 0#32) ∧
    descCheck withB 228#32 0#32 0 true 32 = some (.error .descriptorOutOfBounds 0xE4#32 0#32) ∧
    descCheck (poke 180 31#8 withB) 180#32 148#32 1 false 32
      = some (.error .invalidDescriptorHeaderSize 0x1F#32 0x20#32) ∧
    descCheck (poke 152 4#8 (poke 153 1#8 (poke 156 0#8 withB))) 148#32 0#32 0 true 32
      = some (.error .payloadOutOfBounds 0x104#32 0#32) ∧
    descCheck (poke 152 3#8 (poke 153 1#8 (poke 156 0#8 withB))) 148#32 0#32 0 true 32
      = some (.view u1 259#32 0#32 180#32) := by decide +kernel

/-- WalkNextYields: the last offset, the last count and the last payload that pass. -/
theorem witness_WalkNextYields :
    gives (exec .walkNext { (poke 152 3#8 (poke 153 1#8 (poke 156 0#8 walkB))) with wmax := 1#32 }) (fun t =>
      t.status == 0#32 && t.descPayoff == 259#32 && t.wcnt == 1#32) = true ∧
    gives (exec .walkNext { walkB1 with wcur := 212#32, wprev := 211#32, buflen := 259#32 }) (fun t =>
      t.status == 0#32 && t.descType == u3) = true := by decide +kernel

/-- WalkNextEnds: each clause at its edge; no state meets two clauses' conditions. -/
theorem witness_WalkNextEnds :
    gives (exec .walkNext { walkB1 with wcur := 0#32 }) (fun t => t.status == 0x10#32 && !t.wact && t.hdrv) = true ∧
    gives (exec .walkNext { walkB1 with wmax := 1#32 }) (fun t => t.status == 6#32 && !t.wact) = true ∧
    gives (exec .walkNext { walkB1 with wprev := 180#32 }) (fun t => t.status == 7#32 && t.err0 == 180#32) = true ∧
    gives (exec .walkNext { walkB1 with wcur := 228#32 }) (fun t => t.status == 8#32 && t.err0 == 228#32) = true ∧
    gives (exec .walkNext (poke 180 31#8 walkB1)) (fun t => t.status == 9#32 && t.err0 == 31#32) = true ∧
    gives (exec .walkNext { walkB1 with buflen := 255#32 }) (fun t =>
      t.status == 0x0A#32 && t.err0 == 248#32 && t.err1 == 8#32) = true := by decide +kernel

/-- WalkIsForwardOnly, WalkStopResult: an enumeration under way whose next descriptor is yielded. -/
theorem witness_WalkIsForwardOnly : walkB1.aborted = false ∧ walkB1.wact = true ∧ walkB1.wfirst = false ∧
    gives (exec .walkNext walkB1) (fun t => t.status == 0#32 && t.wprev == 180#32) = true := by decide +kernel

/-- UnreadOperandsDoNotMatter: each of the fifteen commands answers a next state and leaves the FTYPE or the KEYIN column
blank, which another state's value fills. -/
theorem witness_UnreadOperandsDoNotMatter : ∀ i ∈ [Instr.keyexp80, .keyexp128, .enc, .dec, .dgInit, .dgBlock, .dgFinal,
    .dgBuf, .scramble, .unscramble, .pdsValidate, .walkStart, .walkNext, .walkStop, .find],
    (Column.ftype ∉ touches i ∨ Column.keyin ∉ touches i) ∧
    gives (exec i { walkB1 with rkv := true, dgact := true, buflen := 264#32 }) (fun t =>
      t.status == 0#32 || t.status == 0x11#32) = true ∧
    ({ walkB1 with rkv := true, dgact := true, buflen := 264#32 } : State).aborted = false := by decide +kernel

/-- UnspecifiedValuesUnobservable: two states that differ in the whole of the internal registers. -/
theorem witness_UnspecifiedValuesUnobservable : SameObservables State.reset { State.reset with
    rk := Vector.replicate 32 1#64, acc := 1#64, hold := 2#64, wcur := 3#32, wprev := 4#32, wcnt := 5#32,
    wmax := 6#32 } :=
  ⟨rfl, by decide, by decide, by decide, by decide⟩

/-- SecretsAreNotReadable: a read of KEYIN. -/
theorem witness_SecretsAreNotReadable :
    gives (step { State.reset with keyin := 5#128, host := [.read 0x08] }) (fun t => t.readData == 0#1024) = true := by
  decide +kernel

end Sys2Proof.Tests
end

section
namespace Sys2Proof.Machine

/-! The invariant of rule R47: a command ends with a code of the table, and what it writes before keeps each clause. -/

/-- A command that has not aborted ends with an outcome code (rules R27, R181), which spoils no clause. -/
theorem State.Inv.finish {s : State} {c : Code} {a b : Word} (hs : s.Inv) (ha : s.aborted = false) :
    (finish c a b s).Inv :=
  { hs with
    statusIsCode := ⟨c, rfl⟩
    abortedStatus := fun h => absurd (ha.symm.trans h) (by decide) }

/-- The abort (rule R186). -/
theorem State.Inv.abort {s : State} (hs : s.Inv) : (abort s).Inv :=
  { hs with
    statusIsCode := ⟨.aborted, rfl⟩
    abortedStatus := fun _ => rfl }

/-- Without an enumeration the clauses on the walker say nothing. -/
theorem State.Inv.endWalk {s : State} (hs : s.Inv) (hdrv : Bool) : State.Inv { s with wact := false, hdrv := hdrv } :=
  { hs with
    walkNeedsHeader := nofun
    countWithinCap := nofun
    firstMeansNone := nofun
    laterMeansSome := nofun }

/-- WALK_START with a header begins at count 0. -/
theorem State.Inv.startWalk {s : State} (hs : s.Inv) (hhdr : s.hdrv = true) :
    State.Inv { s with
      wcur := s.hdrFirst, wprev := 0#32, wcnt := 0#32, wfirst := true, wmax := s.maxdesc, wact := true } :=
  { hs with
    walkNeedsHeader := fun _ => hhdr
    countWithinCap := fun _ => Nat.zero_le _
    firstMeansNone := fun _ _ => rfl
    laterMeansSome := nofun }

/-- A yield adds one to a count below the cap. -/
theorem State.Inv.yield {s : State} (hs : s.Inv) (hcap : s.wcnt.toNat < s.wmax.toNat) (ty : Quad) (po ps nx : Word) :
    State.Inv { s with
      descType := ty, descPayoff := po, descPaysize := ps,
      wprev := s.wcur, wcur := nx, wcnt := s.wcnt + 1#32, wfirst := false } := by
  have hcnt : (s.wcnt + 1#32).toNat = s.wcnt.toNat + 1 := by
    have := s.wmax.isLt
    bv_omega
  exact { hs with
    countWithinCap := fun _ => by simp only [hcnt]; omega
    firstMeansNone := nofun
    laterMeansSome := fun _ _ => by simp only [hcnt]; omega }

/-- Every command keeps the invariant. -/
theorem exec_keeps_inv {i : Instr} {s t : State} (hs : s.Inv) (h : exec i s = .next t) : t.Inv := by
  rcases Bool.eq_false_or_eq_true s.aborted with ha | ha
  · rw [exec_of_aborted i ha] at h
    injection h with h
    exact h ▸ hs
  cases i with
  | keyexp80 =>
    obtain rfl := execKeyexp80_next ha h
    exact State.Inv.finish { hs with } ha
  | keyexp128 =>
    obtain rfl := execKeyexp128_next ha h
    exact State.Inv.finish { hs with } ha
  | enc =>
    obtain ⟨-, rfl⟩ | ⟨-, rfl⟩ := execEnc_next ha h
    · exact hs.finish ha
    · exact State.Inv.finish { hs with } ha
  | dec =>
    obtain ⟨-, rfl⟩ | ⟨-, rfl⟩ := execDec_next ha h
    · exact hs.finish ha
    · exact State.Inv.finish { hs with } ha
  | dgInit =>
    obtain rfl := execDgInit_next ha h
    exact State.Inv.finish { hs with holdNeedsDigest := fun _ => rfl } ha
  | dgBlock =>
    obtain ⟨-, rfl⟩ | ⟨hact, -, rfl⟩ | ⟨-, -, rfl⟩ := execDgBlock_next ha h
    · exact hs.finish ha
    · exact State.Inv.finish { hs with holdNeedsDigest := fun _ => hact } ha
    · exact State.Inv.finish { hs with holdNeedsDigest := nofun } ha
  | dgFinal =>
    obtain ⟨-, rfl⟩ | ⟨-, rfl⟩ := execDgFinal_next ha h
    · exact hs.finish ha
    · exact State.Inv.finish { hs with holdNeedsDigest := nofun } ha
  | dgBuf =>
    obtain ⟨-, rfl⟩ | ⟨-, _, -, rfl⟩ := execDgBuf_next ha h
    · exact hs.abort
    · exact State.Inv.finish { hs with } ha
  | scramble =>
    obtain rfl := execScramble_next ha h
    exact State.Inv.finish { hs with } ha
  | unscramble =>
    obtain rfl := execUnscramble_next ha h
    exact State.Inv.finish { hs with } ha
  | pdsValidate =>
    obtain ⟨_, _, _, -, rfl⟩ | ⟨_, _, _, _, _, _, -, -, -, -, rfl⟩ := execPdsValidate_next ha h
    · exact (hs.endWalk false).finish ha
    · exact State.Inv.finish { hs.endWalk true with } ha
  | walkStart =>
    obtain ⟨-, rfl⟩ | ⟨hhdr, rfl⟩ := execWalkStart_next ha h
    · exact hs.finish ha
    · exact (hs.startWalk hhdr).finish ha
  | walkNext =>
    obtain ⟨-, rfl⟩ | ⟨-, -, rfl⟩ | ⟨_, _, _, -, -, -, rfl⟩ | ⟨_, _, _, _, -, -, hview, rfl⟩ := execWalkNext_next ha h
    · exact hs.finish ha
    · exact (hs.endWalk s.hdrv).finish ha
    · exact (hs.endWalk s.hdrv).finish ha
    · exact (hs.yield (descCheck_view hview).1 ..).finish ha
  | walkStop =>
    obtain ⟨-, rfl⟩ | ⟨-, rfl⟩ := execWalkStop_next ha h
    · exact hs.finish ha
    · exact (hs.endWalk s.hdrv).finish ha
  | find =>
    obtain ⟨-, rfl⟩ | ⟨-, r, -, rfl⟩ := execFind_next ha h
    · exact hs.finish ha
    cases r with
    | error c a b => exact hs.finish ha
    | found ty po ps => exact State.Inv.finish { hs with } ha
    | notFound => exact hs.finish ha

/-- The reset move keeps BUF; every other clause holds of the reset values (rule R46). -/
theorem State.Inv.resetCore {s : State} (hs : s.Inv) : (resetCore s).Inv where
  bufCanonical := hs.bufCanonical
  statusIsCode := ⟨.ok, rfl⟩
  holdNeedsDigest := nofun
  walkNeedsHeader := nofun
  countWithinCap := nofun
  firstMeansNone := nofun
  laterMeansSome := nofun
  abortedStatus := nofun

/-- The invariant says nothing of the host's moves. -/
theorem State.Inv.host {s : State} (hs : s.Inv) (rest : List HostMove) : State.Inv { s with host := rest } :=
  { hs with }

/-- Settles O15, by the move served: each command by its own outcomes, each other move by the fields it writes. -/
theorem stepKeepsInvariant : Obligations.StepKeepsInvariant := by
  intro s t hs h
  obtain ⟨-, rfl⟩ | ⟨rest, -, rfl⟩ | ⟨no, rest, -, rfl⟩ | ⟨off, v, rest, -, rfl⟩ | ⟨v, rest, -, hcmd⟩ |
    ⟨v, rest, -, rfl⟩ | ⟨no, v, rest, -, -, hbuflen, rfl⟩ := step_next h
  · exact hs
  · exact (hs.host rest).resetCore
  · exact { hs with }
  · exact { hs with bufCanonical := Memory.wf_write s.buf off v hs.bufCanonical }
  · obtain ⟨-, rfl⟩ | ⟨ha, -, rfl⟩ | ⟨-, i, -, hexec⟩ := issueCommand_next hcmd
    · exact hs.host rest
    · exact (hs.host rest).finish ha
    · exact exec_keeps_inv (hs.host rest) hexec
  · exact { (hs.host rest).endWalk false with }
  · rw [hostWrite_operand no v _ hbuflen]
    exact { hs with }

end Sys2Proof.Machine
end

section
namespace Sys2Proof.Machine

/-! Registers by number (rules R25, R44): which numbers are registers, what a read returns and a write stores. -/

/-- A number the map names stands in its row. -/
theorem mem_regMap_of_regOfNo {no : Nat} {r : Reg} (h : regOfNo no = some r) : (no, r) ∈ regMap := by
  obtain ⟨p, hp, rfl⟩ := Option.map_eq_some_iff.mp h
  have hno : p.1 = no := by simpa using List.find?_some hp
  exact hno ▸ List.mem_of_find?_eq_some hp

/-- A number in no row names nothing. -/
theorem regOfNo_eq_none {no : Nat} (h : no ∉ regMap.map Prod.fst) : regOfNo no = none := by
  cases hr : regOfNo no with
  | none => rfl
  | some r => exact absurd (List.mem_map_of_mem (mem_regMap_of_regOfNo hr)) h

theorem hostRead_unmapped {no : Nat} (h : no ∉ regMap.map Prod.fst) (s : State) : hostRead no s = 0#1024 := by
  simp only [hostRead, regOfNo_eq_none h]

/-- A write is ignored outside the seven operand registers. -/
theorem hostWrite_ignored {no : Nat} (h : no ∉ [0x08, 0x09, 0x0B, 0x0C, 0x10, 0x11, 0x12]) (v : Nat) (s : State) :
    hostWrite no v s = s := by
  cases hr : regOfNo no with
  | none => simp only [hostWrite, hr]
  | some r =>
    have hrow := mem_regMap_of_regOfNo hr
    simp only [hostWrite, hr]
    cases r with
    | keyin | blkin | dgiv | dgconst | buflen | maxdesc | ftype => simp [regMap] at hrow; simp [hrow] at h
    | _ => rfl

/-- A read returns none of KEYIN, RK, ACC, HOLD and the walker's registers (rules R30, R200). -/
theorem hostRead_secrets (no : Nat) (s : State) (k : Quad) (rk : Vector Block 32) (a b : Block) (p q r x : Word) :
    hostRead no { s with keyin := k, rk := rk, acc := a, hold := b, wcur := p, wprev := q, wcnt := r, wmax := x } =
      hostRead no s := by
  unfold hostRead
  cases regOfNo no with
  | none => rfl
  | some reg => cases reg <;> rfl

/-! What serving one move answers. -/

theorem step_idle {s : State} (h : s.host = []) : step s = .next s := by
  simp only [step, h]

theorem step_cons {s : State} {m : HostMove} {rest : List HostMove} (h : s.host = m :: rest) :
    step s = serveMove m { s with host := rest } := by
  simp only [step, h]

/-- A read changes nothing but what the host read. -/
theorem step_read {s : State} {no : Nat} {rest : List HostMove} (h : s.host = .read no :: rest) :
    step s = .next { s with host := rest, readData := hostRead no s } := by
  rw [step_cons h, serveMove, hostRead_host]

/-- A write to CMD issues the word. -/
theorem step_cmd {s : State} {v : Nat} {rest : List HostMove} (h : s.host = .write 0x00 v :: rest) :
    step s = issueCommand (BitVec.ofNat 32 v) { s with host := rest } := step_cons h

/-- A write to another number than CMD's stores, if anything. -/
theorem serveWrite_operand {no : Nat} (hno : no ≠ 0x00) (v : Nat) (s : State) :
    serveWrite no v s = .next (hostWrite no v s) := by
  unfold serveWrite
  split
  · next hcmd => exact absurd (regOfNo_cmd hcmd) hno
  · rfl

theorem step_write {s : State} {no v : Nat} {rest : List HostMove} (h : s.host = .write no v :: rest) (hno : no ≠ 0x00) :
    step s = .next (hostWrite no v { s with host := rest }) := by
  rw [step_cons h, serveMove, serveWrite_operand hno]

/-- Settles O5: each quiet move is its own step equation, and the placed byte is the law of a read after a write. -/
theorem quietMovesChangeNothingElse : Obligations.QuietMovesChangeNothingElse :=
  ⟨fun _ => step_idle, fun _ _ _ => step_read, fun s off v _ hwf h =>
    ⟨Memory.write s.buf off.toNat v, step_cons h, Memory.read_write_same _ _ _ hwf,
      fun _ => Memory.read_write_other _ _ _ _ hwf⟩⟩

/-- Settles O8: a write stores in the seven operand registers only, and a read outside the readable ones gives 0. -/
theorem hostAccessCornerCases : Obligations.HostAccessCornerCases := by
  refine ⟨fun s no v rest h => ⟨fun hno => ?_, ?_⟩, fun s no hno => ?_⟩
  · rw [step_write h (List.ne_of_not_mem_cons hno), hostWrite_ignored (List.not_mem_of_not_mem_cons hno)]
  · refine ⟨?_, ?_, ?_, ?_, ?_, ?_, ?_⟩ <;> (rintro rfl; exact step_write h (by decide))
  have hzero : hostRead no s = 0#1024 := by
    rcases hno with hwo | hun
    · simp only [List.mem_cons, List.not_mem_nil, or_false] at hwo
      rcases hwo with rfl | rfl <;> rfl
    · exact hostRead_unmapped hun s
  exact ⟨hzero, fun rest h => hzero ▸ step_read h⟩

/-- Settles O4: a write to CMD is served by issueCommand, which runs the decoded command. -/
theorem stepRunsDecodedInstruction : Obligations.StepRunsDecodedInstruction := by
  refine ⟨fun s v rest i h hd => ?_, fun s i => ?_⟩
  · rw [step_cmd h, issueCommand, hd]
  · have hword : BitVec.ofNat 32 (tableWord 32 (encode i).toNat).toNat = encode i := by cases i <;> rfl
    rw [step_cmd (s := s.withFetchWord 32 (encode i).toNat) rfl, hword, issueCommand_encode]
    rfl

/-- Settles O6: the rows of the map by evaluation, every other number by its absence from the map. -/
theorem hostReadsByNumber : Obligations.HostReadsByNumber := by
  intro s
  iterate 23 refine ⟨rfl, ?_⟩
  exact fun no h => hostRead_unmapped h s

/-- Settles O7: FLAGS is given bit by bit. -/
theorem flagsWordBits : Obligations.FlagsWordBits := by
  intro s i
  rw [flagsWord, getLsbD_bitsOf]
  split <;> simp_all

/-- Settles O9: a BUFLEN write is a write of an operand register, and a byte read is the bounds check of one byte. -/
theorem buflenWriteEndsHeaderAndWalk : Obligations.BuflenWriteEndsHeaderAndWalk := by
  refine ⟨fun s v rest h => step_write h (by decide), fun s off => ?_⟩
  by_cases h : off < s.buflen.toNat
  · simp [memRead, memBytes_of_le (n := 1) h, h]
  · simp [memRead, memBytes_of_lt (n := 1) (show s.buflen.toNat < off + 1 by omega), h]

/-- Settles O10, by evaluating the reset state. -/
theorem resetStateValues : Obligations.ResetStateValues := by
  iterate 27 refine ⟨rfl, ?_⟩
  rfl

/-- Settles O60: what the host reads does not depend on these registers. -/
theorem secretsAreNotReadable : Obligations.SecretsAreNotReadable := by
  intro s no k rk a b p q r x rest h
  exact ⟨_, _, step_read h, step_read h, hostRead_secrets ..⟩

/-- Settles O16: every flag is 0 at reset, so every clause but those on BUF and STATUS is about nothing. -/
theorem invariantHoldsAtReset : Obligations.InvariantHoldsAtReset :=
  ⟨⟨rfl, ⟨.ok, rfl⟩, nofun, nofun, nofun, nofun, nofun, nofun⟩, ⟨nofun, nofun, nofun, nofun⟩, nofun⟩

end Sys2Proof.Machine
end

section
namespace Sys2Proof.Machine

/-! What a command leaves unchanged (rule R45), and what follows for the header registers and the flags. -/

/-- Settles O19, by the outcomes of each command: none writes a field outside its row. -/
theorem commandFrame : Obligations.CommandFrame := by
  intro i s t h
  rcases Bool.eq_false_or_eq_true s.aborted with ha | ha
  · rw [exec_of_aborted i ha] at h
    injection h with h
    simp [h]
  cases i with
  | keyexp80 => obtain rfl := execKeyexp80_next ha h; simp [bufByte]
  | keyexp128 => obtain rfl := execKeyexp128_next ha h; simp [bufByte]
  | enc => obtain ⟨-, rfl⟩ | ⟨-, rfl⟩ := execEnc_next ha h <;> simp [bufByte]
  | dec => obtain ⟨-, rfl⟩ | ⟨-, rfl⟩ := execDec_next ha h <;> simp [bufByte]
  | dgInit => obtain rfl := execDgInit_next ha h; simp [bufByte]
  | dgBlock => obtain ⟨-, rfl⟩ | ⟨-, -, rfl⟩ | ⟨-, -, rfl⟩ := execDgBlock_next ha h <;> simp [bufByte]
  | dgFinal => obtain ⟨-, rfl⟩ | ⟨-, rfl⟩ := execDgFinal_next ha h <;> simp [bufByte]
  | dgBuf => obtain ⟨-, rfl⟩ | ⟨-, _, -, rfl⟩ := execDgBuf_next ha h <;> simp [bufByte]
  | scramble => obtain rfl := execScramble_next ha h; simp [bufByte]
  | unscramble => obtain rfl := execUnscramble_next ha h; simp [bufByte]
  | pdsValidate =>
    obtain ⟨_, _, _, -, rfl⟩ | ⟨_, _, _, _, _, _, -, -, -, -, rfl⟩ := execPdsValidate_next ha h <;> simp [bufByte]
  | walkStart => obtain ⟨-, rfl⟩ | ⟨-, rfl⟩ := execWalkStart_next ha h <;> simp [bufByte]
  | walkNext =>
    obtain ⟨-, rfl⟩ | ⟨-, -, rfl⟩ | ⟨_, _, _, -, -, -, rfl⟩ | ⟨_, _, _, _, -, -, -, rfl⟩ := execWalkNext_next ha h <;>
      simp [bufByte]
  | walkStop => obtain ⟨-, rfl⟩ | ⟨-, rfl⟩ := execWalkStop_next ha h <;> simp [bufByte]
  | find =>
    obtain ⟨-, rfl⟩ | ⟨-, r, -, rfl⟩ := execFind_next ha h
    · simp [bufByte]
    · cases r <;> simp [bufByte]


/-- The clauses ask nothing while HDRV = 0. -/
theorem State.HeaderInv.of_clear {s : State} (h : s.hdrv = false) : s.HeaderInv := by
  constructor <;> simp [h]

/-- Settles O17: only PDS_VALIDATE fills the header registers, and what else ends the header clears HDRV. -/
theorem stepKeepsAcceptedHeader : Obligations.StepKeepsAcceptedHeader := by
  intro s t hs h
  obtain ⟨-, rfl⟩ | ⟨rest, -, rfl⟩ | ⟨no, rest, -, rfl⟩ | ⟨off, v, rest, -, rfl⟩ | ⟨v, rest, -, hcmd⟩ |
    ⟨v, rest, -, rfl⟩ | ⟨no, v, rest, -, -, hbuflen, rfl⟩ := step_next h
  · exact hs
  · exact .of_clear rfl
  · exact { hs with }
  · exact { hs with }
  · obtain ⟨-, rfl⟩ | ⟨-, -, rfl⟩ | ⟨ha, i, -, hexec⟩ := issueCommand_next hcmd
    · exact { hs with }
    · exact { hs with }
    by_cases hi : i = .pdsValidate
    · subst hi
      obtain ⟨_, _, _, -, rfl⟩ | ⟨_, _, _, _, _, _, hmagic, hversion, hlow, hhigh, rfl⟩ := execPdsValidate_next ha hexec
      · exact .of_clear rfl
      · exact ⟨fun _ => hmagic, fun _ => hversion, fun _ => hlow, fun _ => hhigh⟩
    · obtain ⟨-, -, -, -, -, -, hheader, -, -, -, -, -, -, -, hbuflen, -⟩ := commandFrame i _ t hexec
      obtain ⟨hmagic, hsize, -, hversion, -, -, hhdrv⟩ := hheader hi
      constructor <;> rw [hhdrv]
      · rw [hmagic]; exact hs.magic
      · rw [hversion]; exact hs.version
      · rw [hsize]; exact hs.sizeLow
      · rw [hsize, hbuflen]; exact hs.sizeHigh
  · exact .of_clear rfl
  · rw [hostWrite_operand no v _ hbuflen]
    exact { hs with }

/-- Only OK is outcome 0 (rule R181). -/
theorem Code.word_ne_zero {c : Code} (h : c ≠ .ok) : c.word ≠ 0#32 := fun hc => h (Code.word_inj (d := .ok) hc)

/-- A flag goes from f to g: if that sets it then `set` holds, and if that clears it then `clear` does. -/
def FlagChange (f g : Bool) (set clear : Prop) : Prop :=
  (f = false → g = true → set) ∧ (f = true → g = false → clear)

theorem FlagChange.same {f g : Bool} {set clear : Prop} (h : g = f) : FlagChange f g set clear := by
  subst h
  exact ⟨fun h h' => absurd (h.symm.trans h') nofun, fun h h' => absurd (h.symm.trans h') nofun⟩

theorem FlagChange.sets {f : Bool} {set clear : Prop} (h : set) : FlagChange f true set clear :=
  ⟨fun _ _ => h, nofun⟩

theorem FlagChange.clears {f : Bool} {set clear : Prop} (h : clear) : FlagChange f false set clear :=
  ⟨nofun, fun _ _ => h⟩

/-! Each flag, command by command (rule R24). -/

section
variable {i : Instr} {s t : State} (ha : s.aborted = false) (h : exec i s = .next t)
include ha h

theorem exec_rkv : FlagChange s.rkv t.rkv (i = .keyexp80 ∨ i = .keyexp128) False := by
  by_cases hi : i ∈ [.keyexp80, .keyexp128]
  · simp only [List.mem_cons, List.not_mem_nil, or_false] at hi
    rcases hi with rfl | rfl
    · obtain rfl := execKeyexp80_next ha h
      exact .sets (.inl rfl)
    · obtain rfl := execKeyexp128_next ha h
      exact .sets (.inr rfl)
  · obtain ⟨-, -, hrk, -⟩ := commandFrame i s t h
    exact .same (hrk hi).2

theorem exec_dgact : FlagChange s.dgact t.dgact (i = .dgInit) (i = .dgFinal) := by
  by_cases hi : i ∈ [.dgInit, .dgFinal]
  · simp only [List.mem_cons, List.not_mem_nil, or_false] at hi
    rcases hi with rfl | rfl
    · obtain rfl := execDgInit_next ha h
      exact .sets rfl
    · obtain ⟨-, rfl⟩ | ⟨-, rfl⟩ := execDgFinal_next ha h
      · exact .same rfl
      · exact .clears rfl
  · obtain ⟨-, -, -, -, -, hdgact, -⟩ := commandFrame i s t h
    exact .same (hdgact hi)

theorem exec_holdv : FlagChange s.holdv t.holdv (i = .dgBlock) (i = .dgBlock ∨ i = .dgInit ∨ i = .dgFinal) := by
  by_cases hi : i ∈ [.dgInit, .dgBlock, .dgFinal]
  · simp only [List.mem_cons, List.not_mem_nil, or_false] at hi
    rcases hi with rfl | rfl | rfl
    · obtain rfl := execDgInit_next ha h
      exact .clears (.inr (.inl rfl))
    · exact ⟨fun _ _ => rfl, fun _ _ => .inl rfl⟩
    · obtain ⟨-, rfl⟩ | ⟨-, rfl⟩ := execDgFinal_next ha h
      · exact .same rfl
      · exact .clears (.inr (.inr rfl))
  · obtain ⟨-, -, -, -, hdigest, -⟩ := commandFrame i s t h
    exact .same (hdigest hi).2.2

theorem exec_hdrv : FlagChange s.hdrv t.hdrv (i = .pdsValidate ∧ t.status = 0#32) (i = .pdsValidate) := by
  by_cases hi : i = .pdsValidate
  · subst hi
    obtain ⟨_, _, _, -, rfl⟩ | ⟨_, _, _, _, _, _, -, -, -, -, rfl⟩ := execPdsValidate_next ha h
    · exact .clears rfl
    · exact .sets ⟨rfl, rfl⟩
  · obtain ⟨-, -, -, -, -, -, hheader, -⟩ := commandFrame i s t h
    obtain ⟨-, -, -, -, -, -, hhdrv⟩ := hheader hi
    exact .same hhdrv

theorem exec_wact : FlagChange s.wact t.wact (i = .walkStart)
    ((i = .walkNext ∧ t.status ≠ 0#32) ∨ i = .walkStop ∨ i = .pdsValidate) := by
  by_cases hi : i ∈ [.pdsValidate, .walkStart, .walkNext, .walkStop]
  · simp only [List.mem_cons, List.not_mem_nil, or_false] at hi
    rcases hi with rfl | rfl | rfl | rfl
    · obtain ⟨_, _, _, -, rfl⟩ | ⟨_, _, _, _, _, _, -, -, -, -, rfl⟩ := execPdsValidate_next ha h <;>
        exact .clears (.inr (.inr rfl))
    · obtain ⟨-, rfl⟩ | ⟨-, rfl⟩ := execWalkStart_next ha h
      · exact .same rfl
      · exact .sets rfl
    · obtain ⟨-, rfl⟩ | ⟨-, -, rfl⟩ | ⟨_, _, _, -, -, herror, rfl⟩ | ⟨_, _, _, _, -, -, -, rfl⟩ := execWalkNext_next ha h
      · exact .same rfl
      · exact .clears (.inl ⟨rfl, Code.word_ne_zero (c := .chainEnd) nofun⟩)
      · exact .clears (.inl ⟨rfl, Code.word_ne_zero (descCheck_error herror).1⟩)
      · exact .same rfl
    · obtain ⟨-, rfl⟩ | ⟨-, rfl⟩ := execWalkStop_next ha h
      · exact .same rfl
      · exact .clears (.inr (.inl rfl))
  · obtain ⟨-, -, -, -, -, -, -, -, hwact, -⟩ := commandFrame i s t h
    exact .same (hwact hi)

theorem exec_wfirst : FlagChange s.wfirst t.wfirst (i = .walkStart) (i = .walkNext ∧ t.status = 0#32) := by
  by_cases hi : i ∈ [.walkStart, .walkNext]
  · simp only [List.mem_cons, List.not_mem_nil, or_false] at hi
    rcases hi with rfl | rfl
    · obtain ⟨-, rfl⟩ | ⟨-, rfl⟩ := execWalkStart_next ha h
      · exact .same rfl
      · exact .sets rfl
    · obtain ⟨-, rfl⟩ | ⟨-, -, rfl⟩ | ⟨_, _, _, -, -, -, rfl⟩ | ⟨_, _, _, _, -, -, -, rfl⟩ := execWalkNext_next ha h
      · exact .same rfl
      · exact .same rfl
      · exact .same rfl
      · exact .clears ⟨rfl, rfl⟩
  · obtain ⟨-, -, -, -, -, -, -, hwalker, -⟩ := commandFrame i s t h
    obtain ⟨-, -, -, -, hwfirst⟩ := hwalker hi
    exact .same hwfirst

theorem exec_aborted : FlagChange s.aborted t.aborted (i = .dgBuf ∧ s.buflen.toNat % 8 ≠ 0) False := by
  by_cases hi : i = .dgBuf
  · subst hi
    obtain ⟨hlen, rfl⟩ | ⟨-, _, -, rfl⟩ := execDgBuf_next ha h
    · exact .sets ⟨rfl, hlen⟩
    · exact .same rfl
  · obtain ⟨-, -, -, -, -, -, -, -, -, -, haborted, -⟩ := commandFrame i s t h
    exact .same (haborted hi)

end

/-- The seven flags of rule R24 are the same. -/
structure SameFlags (s t : State) : Prop where
  rkv : t.rkv = s.rkv
  dgact : t.dgact = s.dgact
  holdv : t.holdv = s.holdv
  hdrv : t.hdrv = s.hdrv
  wact : t.wact = s.wact
  wfirst : t.wfirst = s.wfirst
  aborted : t.aborted = s.aborted

/-- A step leaves the flags alone, resets them, ends header and walk by a BUFLEN write, or runs a command. -/
theorem step_flags {s t : State} (h : step s = .next t) :
    SameFlags s t ∨ (resets s ∧ SameFlags State.reset t) ∨
      (writesBuflen s ∧ SameFlags { s with hdrv := false, wact := false } t) ∨
      ∃ i u, issues s i ∧ SameFlags s u ∧ u.buflen = s.buflen ∧ exec i u = .next t := by
  obtain ⟨-, rfl⟩ | ⟨rest, hh, rfl⟩ | ⟨no, rest, -, rfl⟩ | ⟨off, v, rest, -, rfl⟩ | ⟨v, rest, hh, hcmd⟩ |
    ⟨v, rest, hh, rfl⟩ | ⟨no, v, rest, -, -, hbuflen, rfl⟩ := step_next h
  · exact .inl (by constructor <;> rfl)
  · exact .inr (.inl ⟨⟨rest, hh⟩, by constructor <;> rfl⟩)
  · exact .inl (by constructor <;> rfl)
  · exact .inl (by constructor <;> rfl)
  · obtain ⟨-, rfl⟩ | ⟨-, -, rfl⟩ | ⟨ha, i, hi, hexec⟩ := issueCommand_next hcmd
    · exact .inl (by constructor <;> rfl)
    · exact .inl (by constructor <;> rfl)
    · exact .inr (.inr (.inr ⟨i, { s with host := rest }, ⟨ha, v, rest, hh, hi⟩, by constructor <;> rfl, rfl, hexec⟩))
  · exact .inr (.inr (.inl ⟨⟨v, rest, hh⟩, by constructor <;> rfl⟩))
  · rw [hostWrite_operand no v _ hbuflen]
    exact .inl (by constructor <;> rfl)

/-- Settles O12: a command changes each flag as that flag's own lemma says; the other moves as step_flags says. -/
theorem flagsChangeOnlyByTheirEvents : Obligations.FlagsChangeOnlyByTheirEvents := by
  intro s t h
  obtain hsame | ⟨hreset, hsame⟩ | ⟨hbuflen, hsame⟩ | ⟨i, u, hissue, hsame, hbuflen, hexec⟩ := step_flags h
  · obtain ⟨hrkv, hdgact, hholdv, hhdrv, hwact, hwfirst, haborted⟩ := hsame
    simp_all
  · obtain ⟨hrkv, hdgact, hholdv, hhdrv, hwact, hwfirst, haborted⟩ := hsame
    simp_all [State.reset]
  · obtain ⟨hrkv, hdgact, hholdv, hhdrv, hwact, hwfirst, haborted⟩ := hsame
    simp_all
  · have ha : u.aborted = false := hsame.aborted.trans hissue.1
    have hi (j : Instr) (hj : i = j) : issues s j := hj ▸ hissue
    obtain ⟨hrkv, hrkv'⟩ := hsame.rkv ▸ exec_rkv ha hexec
    obtain ⟨hdgact, hdgact'⟩ := hsame.dgact ▸ exec_dgact ha hexec
    obtain ⟨hholdv, hholdv'⟩ := hsame.holdv ▸ exec_holdv ha hexec
    obtain ⟨hhdrv, hhdrv'⟩ := hsame.hdrv ▸ exec_hdrv ha hexec
    obtain ⟨hwact, hwact'⟩ := hsame.wact ▸ exec_wact ha hexec
    obtain ⟨hwfirst, hwfirst'⟩ := hsame.wfirst ▸ exec_wfirst ha hexec
    obtain ⟨haborted, haborted'⟩ := hsame.aborted ▸ hbuflen ▸ exec_aborted ha hexec
    exact ⟨fun h h' => (hrkv h h').imp (hi _) (hi _), fun h h' => (hrkv' h h').elim,
      fun h h' => hi _ (hdgact h h'), fun h h' => .inl (hi _ (hdgact' h h')),
      fun h h' => hi _ (hholdv h h'), fun h h' => (hholdv' h h').imp (hi _) (.imp (hi _) fun hj => .inl (hi _ hj)),
      fun h h' => (hhdrv h h').imp_left (hi _), fun h h' => .inl (hi _ (hhdrv' h h')),
      fun h h' => hi _ (hwact h h'),
      fun h h' => (hwact' h h').imp (.imp_left (hi _)) (.imp (hi _) fun hj => .inl (hi _ hj)),
      fun h h' => hi _ (hwfirst h h'), fun h h' => .inl ((hwfirst' h h').imp_left (hi _)),
      fun h h' => (haborted h h').imp_left (hi _), fun h h' => (haborted' h h').elim⟩

end Sys2Proof.Machine
end

section
namespace Sys2Proof.Machine

/-! Reads of BUF inside the buffer have a value, and depend on BUF and BUFLEN alone. -/

theorem memRead32_isSome {s : State} {off : Nat} (h : off + 4 ≤ s.buflen.toNat) : ∃ v, memRead32 s off = some v :=
  ⟨_, memRead32_of_le h⟩

theorem memBytes_isSome {s : State} {off n : Nat} (h : off + n ≤ s.buflen.toNat) : ∃ bs, memBytes s off n = some bs :=
  ⟨_, memBytes_of_le h⟩

/-- The blocks of the buffer, up to the last whole one, can be read (rules R57, R65). -/
theorem readBlocks_isSome {s : State} {j n : Nat} (h : 8 * (j + n) ≤ s.buflen.toNat) :
    ∃ ws, readBlocks s j n = some ws := by
  induction n generalizing j with
  | zero => exact ⟨[], rfl⟩
  | succ n ih =>
    obtain ⟨ws, hws⟩ := ih (j := j + 1) (by omega)
    have hw : memRead64 s (8 * j) = some (leBits 64 (bufBytes s (8 * j) 8)) := by
      simp [memRead64, memRead, memBytes_of_le (show 8 * j + 8 ≤ s.buflen.toNat by omega)]
    simp [readBlocks, hw, hws]

theorem readBlocks_congr {s t : State} (hb : t.buf = s.buf) (hl : t.buflen = s.buflen) (j n : Nat) :
    readBlocks t j n = readBlocks s j n := by
  induction n generalizing j with
  | zero => rfl
  | succ n ih => simp only [readBlocks, memRead64, memRead_congr hb hl, ih]

/-- FIND's loop depends on its arguments, BUF, BUFLEN and FTYPE alone. -/
theorem findLoop_congr {s t : State} (hb : t.buf = s.buf) (hl : t.buflen = s.buflen) (hf : t.ftype = s.ftype)
    (cap left : Nat) (cur prev : Word) (first : Bool) :
    findLoop t cap left cur prev first = findLoop s cap left cur prev first := by
  induction left generalizing cur prev first with
  | zero => rfl
  | succ left ih => simp only [findLoop, descCheck_congr hb hl, hf, ih]

/-! Two answers side by side: both are next states, related by R. One rule for each shared operation. -/

/-- Both answers are next states, and R relates these. -/
def BothNext (R : State → State → Prop) (a b : Answer) : Prop :=
  ∃ s t, a = .next s ∧ b = .next t ∧ R s t

section
variable {R : State → State → Prop} {s t : State} {k k' l l' : Answer}

theorem BothNext.next (h : R s t) : BothNext R (.next s) (.next t) := ⟨s, t, rfl, rfl, h⟩

theorem BothNext.ite {p q : Prop} [Decidable p] [Decidable q] (hpq : q ↔ p) (hk : p → BothNext R k k')
    (hl : ¬ p → BothNext R l l') : BothNext R (if p then k else l) (if q then k' else l') := by
  simp only [hpq]
  split
  · next hp => exact hk hp
  · next hp => exact hl hp

theorem BothNext.unlessAborted (ha : t.aborted = s.aborted) (hset : s.aborted = true → R s t)
    (hk : s.aborted = false → BothNext R k k') : BothNext R (unlessAborted s k) (unlessAborted t k') := by
  cases h : s.aborted with
  | true => rw [unlessAborted_of_set h, unlessAborted_of_set (ha.trans h)]; exact .next (hset h)
  | false => rw [unlessAborted_of_clear h, unlessAborted_of_clear (ha.trans h)]; exact hk h

theorem BothNext.requireFlag {f f' : Bool} {c : Code} (hf : f' = f)
    (hclear : R (finish c 0#32 0#32 s) (finish c 0#32 0#32 t)) (hk : f = true → BothNext R k k') :
    BothNext R (requireFlag f c s k) (requireFlag f' c t k') := by
  subst hf
  cases f' with
  | true => exact hk rfl
  | false => exact .next hclear

theorem BothNext.orFault {α : Type} {r r' : Option α} {k k' : α → Answer} (hr : r' = r) (hsome : ∃ a, r = some a)
    (hk : ∀ a, r = some a → BothNext R (k a) (k' a)) : BothNext R (orFault r k) (orFault r' k') := by
  obtain ⟨a, ha⟩ := hsome
  subst hr ha
  exact hk a rfl

/-! The four commands that read BUF, from two states with the same buffer. -/

section
variable (hb : t.buf = s.buf) (hl : t.buflen = s.buflen)
include hb hl

theorem memRead32_congr (off : Nat) : memRead32 t off = memRead32 s off := memRead_congr hb hl off 4

/-- DG_BUF reads its blocks, DGIV and DGCONST, and no block outside the buffer (rule R57). -/
theorem execDgBuf_bothNext (ha : t.aborted = s.aborted) (hset : s.aborted = true → R s t)
    (habort : R (abort s) (abort t))
    (hok : ∀ ws, R (finish .ok 0#32 0#32 { s with dgout := digest ws s.dgiv s.dgconst })
      (finish .ok 0#32 0#32 { t with dgout := digest ws t.dgiv t.dgconst })) :
    BothNext R (execDgBuf s) (execDgBuf t) := by
  refine .unlessAborted ha hset fun _ => .ite (by rw [hl]) (fun _ => .next habort) fun _ => ?_
  exact .orFault (by rw [hl, readBlocks_congr hb hl]) (readBlocks_isSome (by omega)) fun _ _ => .next (hok _)

/-- PDS_VALIDATE's checks read the buffer alone, and never outside it (rule R57). -/
theorem validateHeader_bothNext (herror : ∀ c a b, R (finish c a b s) (finish c a b t))
    (hok : ∀ magic hsize stored version first vstr,
      R (finish .ok 0#32 0#32 { s with
          hdrMagic := magic, hdrSize := hsize, hdrCrc := stored, hdrVersion := version, hdrFirst := first,
          hdrVstr := vstr, hdrv := true })
        (finish .ok 0#32 0#32 { t with
          hdrMagic := magic, hdrSize := hsize, hdrCrc := stored, hdrVersion := version, hdrFirst := first,
          hdrVstr := vstr, hdrv := true })) :
    BothNext R (validateHeader s) (validateHeader t) := by
  have hw : Config.hdrW = 148 := rfl
  have hc : Config.crcStart = 12 := rfl
  unfold validateHeader validateCrc
  refine .ite (by rw [hl]) (fun _ => .next (herror ..)) fun hlen => ?_
  refine .orFault (memRead32_congr hb hl _) (memRead32_isSome (by omega)) fun magic _ => ?_
  refine .ite Iff.rfl (fun _ => .next (herror ..)) fun _ => ?_
  refine .orFault (memRead32_congr hb hl _) (memRead32_isSome (by omega)) fun version _ => ?_
  refine .ite Iff.rfl (fun _ => .next (herror ..)) fun _ => ?_
  refine .orFault (memRead32_congr hb hl _) (memRead32_isSome (by omega)) fun hsize _ => ?_
  refine .ite Iff.rfl (fun _ => .next (herror ..)) fun _ => ?_
  refine .ite (by rw [hl]) (fun _ => .next (herror ..)) fun hfits => ?_
  refine .orFault (memRead32_congr hb hl _) (memRead32_isSome (by omega)) fun stored _ => ?_
  refine .orFault (memBytes_congr hb hl ..) (memBytes_isSome (by omega)) fun covered _ => ?_
  refine .ite Iff.rfl (fun _ => .next (herror ..)) fun _ => ?_
  refine .orFault (memRead32_congr hb hl _) (memRead32_isSome (by omega)) fun first _ => ?_
  exact .orFault (memBytes_congr hb hl ..) (memBytes_isSome (by omega)) fun vstr _ => .next (hok ..)

/-- WALK_NEXT reads the walker's registers only in an enumeration. -/
theorem execWalkNext_bothNext (ha : t.aborted = s.aborted) (hset : s.aborted = true → R s t)
    (hwact : t.wact = s.wact) (hclear : R (finish .noWalk 0#32 0#32 s) (finish .noWalk 0#32 0#32 t))
    (hwalk : s.wact = true → t.wcur = s.wcur ∧ t.wprev = s.wprev ∧ t.wcnt = s.wcnt ∧ t.wfirst = s.wfirst ∧
      t.wmax = s.wmax)
    (hends : ∀ c a b, R (finish c a b { s with wact := false }) (finish c a b { t with wact := false }))
    (hyield : s.wact = true → ∀ ty po ps nx, R
      (finish .ok 0#32 0#32 { s with
        descType := ty, descPayoff := po, descPaysize := ps,
        wprev := s.wcur, wcur := nx, wcnt := s.wcnt + 1#32, wfirst := false })
      (finish .ok 0#32 0#32 { t with
        descType := ty, descPayoff := po, descPaysize := ps,
        wprev := t.wcur, wcur := nx, wcnt := t.wcnt + 1#32, wfirst := false })) :
    BothNext R (execWalkNext s) (execWalkNext t) := by
  refine .unlessAborted ha hset fun _ => .requireFlag hwact hclear fun h => ?_
  obtain ⟨hcur, hprev, hcnt, hfirst, hmax⟩ := hwalk h
  refine .ite (by rw [hcur]) (fun _ => .next (hends ..)) fun _ => ?_
  refine .orFault (by rw [hcur, hprev, hcnt, hfirst, hmax, descCheck_congr hb hl]) (descCheck_isSome ..) fun r _ => ?_
  cases r with
  | error c a b => exact .next (hends ..)
  | view ty po ps nx => exact .next (hyield h ..)

/-- FIND reads the header's first offset and FTYPE. -/
theorem execFind_bothNext (ha : t.aborted = s.aborted) (hset : s.aborted = true → R s t)
    (hhdrv : t.hdrv = s.hdrv) (hfirst : t.hdrFirst = s.hdrFirst) (hftype : t.ftype = s.ftype)
    (hends : ∀ c a b, R (finish c a b s) (finish c a b t))
    (hfound : ∀ ty po ps, R
      (finish .ok 0#32 0#32 { s with descType := ty, descPayoff := po, descPaysize := ps })
      (finish .ok 0#32 0#32 { t with descType := ty, descPayoff := po, descPaysize := ps })) :
    BothNext R (execFind s) (execFind t) := by
  refine .unlessAborted ha hset fun _ => .requireFlag hhdrv (hends ..) fun _ => ?_
  refine .orFault (by rw [hfirst, findLoop_congr hb hl hftype]) (findLoop_isSome ..) fun r _ => ?_
  cases r with
  | error c a b => exact .next (hends ..)
  | found ty po ps => exact .next (hfound ..)
  | notFound => exact .next (hends ..)

end

end

/-! The blank cells of rule R45's table. -/

/-- t is s with a column taken from x. -/
def Copied (c : Column) (x s t : State) : Prop := t = c.copy x s

/-- No column holds STATUS, ERR0, ERR1 or ABORTED. -/
theorem copied_finish (c : Column) (x s : State) (e : Code) (a b : Word) :
    Copied c x (finish e a b s) (finish e a b (c.copy x s)) := by
  cases c <;> rfl

theorem copied_abort (c : Column) (x s : State) : Copied c x (abort s) (abort (c.copy x s)) := by
  cases c <;> rfl

theorem Column.copy_aborted (c : Column) (x s : State) : (c.copy x s).aborted = s.aborted := by
  cases c <;> rfl

/-- Any command: with another state's value in a column it does not touch, it ends the same but for that column. -/
theorem exec_copied {i : Instr} {c : Column} (hc : c ∉ touches i) (x s : State) :
    BothNext (Copied c x) (exec i s) (exec i (c.copy x s)) := by
  have ha := c.copy_aborted x s
  have hno (e : Code) := copied_finish c x s e 0#32 0#32
  cases i with
  | keyexp80 | keyexp128 | dgInit | scramble | unscramble =>
    refine .unlessAborted ha (fun _ => rfl) fun _ => .next ?_
    cases c <;> simp [touches] at hc <;> rfl
  | enc | dec | dgFinal | walkStart | walkStop =>
    refine .unlessAborted ha (fun _ => rfl) fun _ => .requireFlag ?_ (hno _) fun _ => .next ?_ <;>
      cases c <;> simp [touches] at hc <;> rfl
  | dgBlock =>
    refine .unlessAborted ha (fun _ => rfl) fun _ => .requireFlag ?_ (hno _) fun _ =>
        .ite ?_ (fun _ => .next ?_) fun _ => .next ?_ <;>
      cases c <;> simp [touches] at hc <;> rfl
  | dgBuf =>
    refine execDgBuf_bothNext ?_ ?_ ha (fun _ => rfl) (copied_abort ..) (fun _ => ?_) <;>
      cases c <;> simp [touches] at hc <;> rfl
  | pdsValidate =>
    refine .unlessAborted ha (fun _ => rfl) fun _ =>
        validateHeader_bothNext ?_ ?_ (fun _ _ _ => ?_) (fun _ _ _ _ _ _ => ?_) <;>
      cases c <;> simp [touches] at hc <;> rfl
  | walkNext =>
    refine execWalkNext_bothNext ?_ ?_ ha (fun _ => rfl) ?_ (hno _) (fun _ => ⟨?_, ?_, ?_, ?_, ?_⟩) (fun _ _ _ => ?_)
        (fun _ _ _ _ _ => ?_) <;>
      cases c <;> simp [touches] at hc <;> rfl
  | find =>
    refine execFind_bothNext ?_ ?_ ha (fun _ => rfl) ?_ ?_ ?_ (copied_finish c x s) (fun _ _ _ => ?_) <;>
      cases c <;> simp [touches] at hc <;> rfl

/-- Any command not aborted: STATUS, ERR0 and ERR1 are overwritten, not read. -/
theorem exec_ends {i : Instr} {s : State} (h : s.aborted = false) (a b d : Word) :
    BothNext Eq (exec i s) (exec i (ends a b d s)) := by
  have hset (hs : s.aborted = true) : s = ends a b d s := absurd (h.symm.trans hs) nofun
  cases i with
  | keyexp80 | keyexp128 | dgInit | scramble | unscramble =>
    exact .unlessAborted rfl hset fun _ => .next rfl
  | enc | dec | dgFinal | walkStart | walkStop =>
    exact .unlessAborted rfl hset fun _ => .requireFlag rfl rfl fun _ => .next rfl
  | dgBlock =>
    exact .unlessAborted rfl hset fun _ => .requireFlag rfl rfl fun _ =>
      .ite Iff.rfl (fun _ => .next rfl) fun _ => .next rfl
  | dgBuf => exact execDgBuf_bothNext rfl rfl rfl hset rfl fun _ => rfl
  | pdsValidate =>
    exact .unlessAborted rfl hset fun _ =>
      validateHeader_bothNext rfl rfl (fun _ _ _ => rfl) fun _ _ _ _ _ _ => rfl
  | walkNext =>
    exact execWalkNext_bothNext rfl rfl rfl hset rfl rfl (fun _ => ⟨rfl, rfl, rfl, rfl, rfl⟩) (fun _ _ _ => rfl)
      fun _ _ _ _ _ => rfl
  | find => exact execFind_bothNext rfl rfl rfl hset rfl rfl rfl (fun _ _ _ => rfl) fun _ _ _ => rfl

/-- Settles O58: the command run from the two states at once, the blank column carried along. -/
theorem unreadOperandsDoNotMatter : Obligations.UnreadOperandsDoNotMatter := by
  refine ⟨fun i c s t x hc h => ?_, fun i s a b d ha => ?_⟩
  · obtain ⟨s', t', hs, ht, rfl⟩ := exec_copied hc x s
    obtain rfl : s' = t := Host.Outcome.next.inj (hs.symm.trans h)
    exact ht
  · obtain ⟨s', t', hs, ht, rfl⟩ := exec_ends (i := i) ha a b d
    exact ht.trans hs.symm

end Sys2Proof.Machine
end

section
namespace Sys2Proof.Machine

/-! Internal registers whose validity flag is 0 (rules R46, R212). -/

/-- The same states in a form to compute with: t is s with other internal registers. -/
theorem SameObservables.elim {s t : State} (h : SameObservables s t) :
    ∃ (rk : Vector Block 32) (acc hold : Block) (cur prev cnt max : Word),
      t = { s with rk := rk, acc := acc, hold := hold, wcur := cur, wprev := prev, wcnt := cnt, wmax := max } ∧
      (s.rkv = true → rk = s.rk) ∧ (s.dgact = true → acc = s.acc) ∧ (s.holdv = true → hold = s.hold) ∧
      (s.wact = true → cur = s.wcur ∧ prev = s.wprev ∧ cnt = s.wcnt ∧ max = s.wmax) :=
  ⟨t.rk, t.acc, t.hold, t.wcur, t.wprev, t.wcnt, t.wmax, h.same, h.rk, h.acc, h.hold, h.walk⟩

theorem SameObservables.aborted {s t : State} (h : SameObservables s t) : t.aborted = s.aborted := by
  rw [h.same]

theorem SameObservables.host {s t : State} (h : SameObservables s t) : t.host = s.host := by
  rw [h.same]

theorem SameObservables.withHost {s t : State} (h : SameObservables s t) (rest : List HostMove) :
    SameObservables { s with host := rest } { t with host := rest } :=
  ⟨congrArg (fun u : State => { u with host := rest }) h.same, h.rk, h.acc, h.hold, h.walk⟩

theorem SameObservables.finish {s t : State} {c : Code} {a b : Word} (h : SameObservables s t) :
    SameObservables (finish c a b s) (finish c a b t) :=
  ⟨congrArg (Machine.finish c a b) h.same, h.rk, h.acc, h.hold, h.walk⟩

/-- Any command: it reads an internal register only where the flag is 1, and sets a flag only with the register. -/
theorem exec_sameObservables {s t : State} (i : Instr) (h : SameObservables s t) :
    BothNext SameObservables (exec i s) (exec i t) := by
  obtain ⟨rk, acc, hold, cur, prev, cnt, max, rfl, hrk, hacc, hhold, hwalk⟩ := h.elim
  cases i with
  | keyexp80 | keyexp128 =>
    exact .unlessAborted rfl (fun _ => h) fun _ => .next ⟨rfl, fun _ => rfl, hacc, hhold, hwalk⟩
  | enc | dec =>
    refine .unlessAborted rfl (fun _ => h) fun _ => .requireFlag rfl h.finish fun hrkv => ?_
    obtain rfl := hrk hrkv
    exact .next ⟨rfl, fun _ => rfl, hacc, hhold, hwalk⟩
  | dgInit =>
    exact .unlessAborted rfl (fun _ => h) fun _ => .next ⟨rfl, hrk, fun _ => rfl, fun _ => rfl, hwalk⟩
  | dgBlock =>
    refine .unlessAborted rfl (fun _ => h) fun _ => .requireFlag rfl h.finish fun hdgact => .ite Iff.rfl
      (fun hholdv => ?_) fun _ => .next ⟨rfl, hrk, hacc, fun _ => rfl, hwalk⟩
    obtain rfl := hacc hdgact
    obtain rfl := hhold hholdv
    exact .next ⟨rfl, hrk, fun _ => rfl, fun _ => rfl, hwalk⟩
  | dgFinal =>
    refine .unlessAborted rfl (fun _ => h) fun _ => .requireFlag rfl h.finish fun hdgact => .next ?_
    obtain rfl := hacc hdgact
    have hpair : (if s.holdv then compress s.acc (pairKey hold hold) else s.acc) =
        if s.holdv then compress s.acc (pairKey s.hold s.hold) else s.acc := by
      split
      · next hholdv => rw [hhold hholdv]
      · rfl
    simp only [hpair]
    exact ⟨rfl, hrk, fun _ => rfl, fun _ => rfl, hwalk⟩
  | dgBuf =>
    refine execDgBuf_bothNext (R := SameObservables) rfl rfl rfl (fun _ => h) ?_ (fun _ => ?_) <;>
      exact ⟨rfl, hrk, hacc, hhold, hwalk⟩
  | scramble | unscramble =>
    exact .unlessAborted rfl (fun _ => h) fun _ => .next ⟨rfl, hrk, hacc, hhold, hwalk⟩
  | pdsValidate =>
    exact .unlessAborted rfl (fun _ => h) fun _ => validateHeader_bothNext rfl rfl
      (fun _ _ _ => ⟨rfl, hrk, hacc, hhold, nofun⟩) fun _ _ _ _ _ _ => ⟨rfl, hrk, hacc, hhold, nofun⟩
  | walkStart =>
    exact .unlessAborted rfl (fun _ => h) fun _ => .requireFlag rfl h.finish fun _ =>
      .next ⟨rfl, hrk, hacc, hhold, fun _ => ⟨rfl, rfl, rfl, rfl⟩⟩
  | walkNext =>
    refine execWalkNext_bothNext rfl rfl rfl (fun _ => h) rfl h.finish (fun hwact => ?_)
      (fun _ _ _ => ⟨rfl, hrk, hacc, hhold, nofun⟩) fun hwact _ _ _ _ => ?_
    · obtain ⟨hcur, hprev, hcnt, hmax⟩ := hwalk hwact
      exact ⟨hcur, hprev, hcnt, rfl, hmax⟩
    · obtain ⟨rfl, rfl, rfl, rfl⟩ := hwalk hwact
      exact ⟨rfl, hrk, hacc, hhold, fun _ => ⟨rfl, rfl, rfl, rfl⟩⟩
  | walkStop =>
    exact .unlessAborted rfl (fun _ => h) fun _ => .requireFlag rfl h.finish fun _ =>
      .next ⟨rfl, hrk, hacc, hhold, nofun⟩
  | find =>
    refine execFind_bothNext rfl rfl rfl (fun _ => h) rfl rfl rfl (fun _ _ _ => h.finish) fun _ _ _ => ?_
    exact ⟨rfl, hrk, hacc, hhold, hwalk⟩

/-- A write of an operand register reads nothing; that of BUFLEN ends the enumeration. -/
theorem hostWrite_sameObservables {s t : State} (no v : Nat) (h : SameObservables s t) :
    SameObservables (hostWrite no v s) (hostWrite no v t) := by
  obtain ⟨rk, acc, hold, cur, prev, cnt, max, rfl, hrk, hacc, hhold, hwalk⟩ := h.elim
  unfold hostWrite
  cases regOfNo no with
  | none => exact h
  | some r =>
    cases r with
    | buflen => exact ⟨rfl, hrk, hacc, hhold, nofun⟩
    | _ => exact ⟨rfl, hrk, hacc, hhold, hwalk⟩

theorem issueCommand_sameObservables {s t : State} (w : Word) (h : SameObservables s t) :
    BothNext SameObservables (issueCommand w s) (issueCommand w t) := by
  unfold issueCommand
  cases decode w with
  | instr i => exact exec_sameObservables i h
  | rejected r => exact .unlessAborted h.aborted (fun _ => h) fun _ => .next h.finish

/-- Any move of the host. -/
theorem serveMove_sameObservables {s t : State} (m : HostMove) (h : SameObservables s t) :
    BothNext SameObservables (serveMove m s) (serveMove m t) := by
  cases m with
  | write no v =>
    by_cases hno : no = 0x00
    · subst hno
      exact issueCommand_sameObservables (BitVec.ofNat 32 v) h
    · rw [serveMove, serveMove, serveWrite_operand hno, serveWrite_operand hno]
      exact .next (hostWrite_sameObservables no v h)
  | read no =>
    obtain ⟨rk, acc, hold, cur, prev, cnt, max, rfl, hrk, hacc, hhold, hwalk⟩ := h.elim
    have hread := hostRead_secrets no s s.keyin rk acc hold cur prev cnt max
    simp only [serveMove, hread]
    exact .next ⟨rfl, hrk, hacc, hhold, hwalk⟩
  | place off v =>
    obtain ⟨rk, acc, hold, cur, prev, cnt, max, rfl, hrk, hacc, hhold, hwalk⟩ := h.elim
    exact .next ⟨rfl, hrk, hacc, hhold, hwalk⟩
  | reset =>
    obtain ⟨rk, acc, hold, cur, prev, cnt, max, rfl, -⟩ := h.elim
    exact .next ⟨rfl, fun _ => rfl, fun _ => rfl, fun _ => rfl, fun _ => ⟨rfl, rfl, rfl, rfl⟩⟩

/-- Settles O59: the two states hold the same moves, and each move keeps them the same observably. -/
theorem unspecifiedValuesUnobservable : Obligations.UnspecifiedValuesUnobservable := by
  intro s t h
  change BothNext SameObservables (step s) (step t)
  cases hh : s.host with
  | nil =>
    rw [step_idle hh, step_idle (h.host.trans hh)]
    exact .next h
  | cons m rest =>
    rw [step_cons hh, step_cons (h.host.trans hh)]
    exact serveMove_sameObservables m (h.withHost rest)

end Sys2Proof.Machine
end

section
namespace Sys2Proof.Machine

/-! Every command ends in a next state, and leaves BUF as it is (rules R51, R57, R222). -/

/-- The first of two states holds the buffer m. -/
def HoldsBuf (m : Memory) (t _ : State) : Prop := t.buf = m

/-- Any command: the checks before its reads keep them in the buffer, and nothing it writes is BUF. The two answers
side by side are here the command's own, twice. -/
theorem exec_ends_keeping_buf (i : Instr) (s : State) : ∃ t, exec i s = .next t ∧ t.buf = s.buf := by
  suffices hboth : BothNext (HoldsBuf s.buf) (exec i s) (exec i s) by
    obtain ⟨t, _, ht, -, hbuf⟩ := hboth
    exact ⟨t, ht, hbuf⟩
  cases i with
  | keyexp80 | keyexp128 | dgInit | scramble | unscramble =>
    exact .unlessAborted rfl (fun _ => rfl) fun _ => .next rfl
  | enc | dec | dgFinal | walkStart | walkStop =>
    exact .unlessAborted rfl (fun _ => rfl) fun _ => .requireFlag rfl rfl fun _ => .next rfl
  | dgBlock =>
    exact .unlessAborted rfl (fun _ => rfl) fun _ => .requireFlag rfl rfl fun _ =>
      .ite Iff.rfl (fun _ => .next rfl) fun _ => .next rfl
  | dgBuf => exact execDgBuf_bothNext rfl rfl rfl (fun _ => rfl) rfl fun _ => rfl
  | pdsValidate =>
    exact .unlessAborted rfl (fun _ => rfl) fun _ =>
      validateHeader_bothNext rfl rfl (fun _ _ _ => rfl) fun _ _ _ _ _ _ => rfl
  | walkNext =>
    exact execWalkNext_bothNext rfl rfl rfl (fun _ => rfl) rfl rfl (fun _ => ⟨rfl, rfl, rfl, rfl, rfl⟩)
      (fun _ _ _ => rfl) fun _ _ _ _ _ => rfl
  | find =>
    exact execFind_bothNext rfl rfl rfl (fun _ => rfl) rfl rfl rfl (fun _ _ _ => rfl) fun _ _ _ => rfl

theorem exec_completes (i : Instr) (s : State) : ∃ t, exec i s = .next t := by
  obtain ⟨t, ht, -⟩ := exec_ends_keeping_buf i s
  exact ⟨t, ht⟩

theorem exec_buf {i : Instr} {s t : State} (h : exec i s = .next t) : t.buf = s.buf := by
  obtain ⟨u, hu, hbuf⟩ := exec_ends_keeping_buf i s
  obtain rfl : u = t := Host.Outcome.next.inj (hu.symm.trans h)
  exact hbuf

theorem issueCommand_completes (w : Word) (s : State) : ∃ t, issueCommand w s = .next t := by
  unfold issueCommand
  cases decode w with
  | instr i => exact exec_completes i s
  | rejected _ =>
    cases ha : s.aborted with
    | true => exact ⟨s, unlessAborted_of_set ha _⟩
    | false => exact ⟨_, unlessAborted_of_clear ha _⟩

theorem serveMove_completes (m : HostMove) (s : State) : ∃ t, serveMove m s = .next t := by
  cases m with
  | write no v =>
    by_cases hno : no = 0x00
    · subst hno
      exact issueCommand_completes (BitVec.ofNat 32 v) s
    · exact ⟨_, serveWrite_operand hno v s⟩
  | read | place | reset => exact ⟨_, rfl⟩

/-- Settles O14: the host's oldest move is served to its end, a command by the checks before its reads. -/
theorem stepAlwaysCompletes : Obligations.StepAlwaysCompletes := by
  refine ⟨fun s => ?_, exec_completes⟩
  cases hh : s.host with
  | nil => exact ⟨s, step_idle hh⟩
  | cons m rest =>
    rw [step_cons hh]
    exact serveMove_completes m _

/-- Settles O20: by the move served, of which only a placed byte writes BUF. -/
theorem coreNeverWritesBuffer : Obligations.CoreNeverWritesBuffer := by
  refine ⟨fun i s t => exec_buf, fun s t h hne => ?_⟩
  obtain ⟨-, rfl⟩ | ⟨rest, -, rfl⟩ | ⟨no, rest, -, rfl⟩ | ⟨off, v, rest, hh, -⟩ | ⟨v, rest, -, hcmd⟩ |
    ⟨v, rest, -, rfl⟩ | ⟨no, v, rest, -, -, hbuflen, rfl⟩ := step_next h
  · exact absurd rfl hne
  · exact absurd rfl hne
  · exact absurd rfl hne
  · exact ⟨off, v, rest, hh⟩
  · obtain ⟨-, rfl⟩ | ⟨-, -, rfl⟩ | ⟨-, i, -, hexec⟩ := issueCommand_next hcmd
    · exact absurd rfl hne
    · exact absurd rfl hne
    · exact absurd (exec_buf hexec) hne
  · exact absurd rfl hne
  · rw [hostWrite_operand no v _ hbuflen] at hne
    exact absurd rfl hne

/-! What a read inside the buffer returns (rules R52 to R54, R77). -/

theorem bufBytes_eq_bytesAt (s : State) (off n : Nat) : bufBytes s off n = bytesAt s off n := by
  induction n generalizing off with
  | zero => rfl
  | succ n ih =>
    rw [bufBytes, ih, bytesAt, bytesAt, List.range_succ_eq_map, List.map_cons, List.map_map]
    simp [Function.comp_def, Nat.add_assoc, Nat.add_comm 1]

theorem leBits_bufBytes_four (s : State) (off : Nat) : leBits 32 (bufBytes s off 4) = u32At s off := by
  simp only [bufBytes, leBits_cons 24, leBits_cons 16, leBits_cons 8, leBits_one, u32At]

/-- A block is two fields, the second one on top. -/
theorem leBits_bufBytes_eight (s : State) (off : Nat) : leBits 64 (bufBytes s off 8) = u64At s off := by
  rw [bufBytes_append s off 4 4, leBits_append 32 32 _ _ (by simp), leBits_bufBytes_four, leBits_bufBytes_four, u64At]

/-- A 16-byte string is two blocks, the second one on top. -/
theorem leBits_bufBytes_sixteen (s : State) (off : Nat) : leBits 128 (bufBytes s off 16) = u128At s off := by
  rw [bufBytes_append s off 8 8, leBits_append 64 64 _ _ (by simp), leBits_bufBytes_eight, leBits_bufBytes_eight, u128At]

theorem memRead_of_le {s : State} {off n : Nat} (h : off + n ≤ s.buflen.toNat) :
    memRead s off n = some (leBits (8 * n) (bufBytes s off n)) := by
  rw [memRead, memBytes_of_le h, Option.map_some]

theorem memRead_of_lt {s : State} {off n : Nat} (h : s.buflen.toNat < off + n) : memRead s off n = none := by
  rw [memRead, memBytes_of_lt h, Option.map_none]

/-- Settles O21: inside the buffer each width's read is its bytes' register value, built up from 4 bytes to 8 and 16. -/
theorem memReadLittleEndian : Obligations.MemReadLittleEndian := by
  intro s off
  refine ⟨fun h => ?_, fun h => ?_, fun h => ?_, fun h => ?_, fun n h => ⟨memRead_of_lt h, memBytes_of_lt h⟩,
    fun n h => ?_⟩
  · exact (memRead_of_le h).trans (congrArg some (leBits_one _))
  · exact (memRead_of_le h).trans (congrArg some (leBits_bufBytes_four s off))
  · exact (memRead_of_le h).trans (congrArg some (leBits_bufBytes_eight s off))
  · rw [memBytes_of_le h, Option.map_some, leBits_bufBytes_sixteen]
  · rw [memBytes_of_le h, bufBytes_eq_bytesAt]

end Sys2Proof.Machine
end

section
namespace Sys2Proof.Machine

/-! The command word (rules R70 to R72): its two fields as numbers, the words the decoder reads as a command, and the
agreement of rule R71's rows with rule R72's illegal ranges. -/

theorem toNat_opcodeField (w : Word) : (opcodeField w).toNat = w.toNat % 256 := by
  simp [opcodeField]

theorem toNat_rsvdField (w : Word) : (rsvdField w).toNat = w.toNat / 256 := by
  rw [rsvdField, BitVec.extractLsb'_toNat, Nat.shiftRight_eq_div_pow]
  omega

/-- Bits 31:8 are 0 exactly when the word is its opcode. -/
theorem rsvdField_eq_zero_iff (w : Word) : rsvdField w = 0#24 ↔ w = (opcodeField w).setWidth 32 := by
  rw [← BitVec.toNat_inj, ← BitVec.toNat_inj, toNat_rsvdField, BitVec.toNat_setWidth, toNat_opcodeField,
    BitVec.toNat_ofNat]
  omega

theorem reservedBitsClear_iff (w : Word) : reservedBitsClear w = true ↔ rsvdField w = 0#24 := by
  rw [← BitVec.toNat_inj, toNat_rsvdField]
  exact beq_iff_eq

/-- The check of the opcode, range by range. -/
theorem opcodeAssigned_eq_false_iff (w : Word) : opcodeAssigned w = false ↔
    w.toNat % 256 = 0 ∨ (0x05 ≤ w.toNat % 256 ∧ w.toNat % 256 ≤ 0x07) ∨
      (0x0C ≤ w.toNat % 256 ∧ w.toNat % 256 ≤ 0x0F) ∨ (0x12 ≤ w.toNat % 256 ∧ w.toNat % 256 ≤ 0x1F) ∨
      (0x21 ≤ w.toNat % 256 ∧ w.toNat % 256 ≤ 0x27) ∨ 0x2C ≤ w.toNat % 256 := by
  have hranges : opcodeAssigned w = false ↔
      ∃ r ∈ illegalOpcodeRanges, r.1 ≤ w.toNat % 256 ∧ w.toNat % 256 ≤ r.2 := by simp [opcodeAssigned]
  simp only [hranges, illegalOpcodeRanges, List.exists_mem_cons_iff, List.not_mem_nil, false_and, exists_false,
    or_false]
  omega

/-- The illegal ranges of rule R72 are the complement of the rows of rule R71. -/
theorem opcodeAssigned_iff (w : Word) : opcodeAssigned w = true ↔ opcodeField w ∈ opcodeMap.map Prod.fst := by
  rw [← Bool.not_eq_false, opcodeAssigned_eq_false_iff]
  simp only [opcodeMap, List.map_cons, List.map_nil, List.mem_cons, List.not_mem_nil, ← BitVec.toNat_inj,
    toNat_opcodeField, BitVec.toNat_ofNat, or_false]
  omega

/-- A word that decodes to a command has bits 31:8 clear and its opcode in that command's row. -/
theorem fields_of_decode {w : Word} {i : Instr} (h : decode w = .instr i) :
    rsvdField w = 0#24 ∧ (opcodeField w, i) ∈ opcodeMap := by
  unfold decode at h
  split at h
  · cases h
  · next hrsvd =>
    split at h
    · next row hrow =>
      cases h
      have hop : row.1 = opcodeField w := by simpa using List.find?_some hrow
      exact ⟨not_not.mp hrsvd, hop ▸ List.mem_of_find?_eq_some hrow⟩
    · cases h

/-- The decoder finds a row for every opcode of the map. -/
theorem decode_isInstr {w : Word} (hrsvd : rsvdField w = 0#24) (hop : opcodeField w ∈ opcodeMap.map Prod.fst) :
    ∃ i, decode w = .instr i := by
  obtain ⟨row, hrow, heq⟩ := List.mem_map.mp hop
  cases hfind : opcodeMap.find? fun r => r.1 == opcodeField w with
  | some r => exact ⟨r.2, by simp [decode, hrsvd, hfind]⟩
  | none => exact absurd (List.find?_eq_none.mp hfind row hrow) (by simp [heq])

theorem decode_encode (i : Instr) : decode (encode i) = .instr i := by
  cases i <;> rfl

/-- Columns "match" and "opcode" of rule R71: a command's word is its row's opcode. -/
theorem encode_of_row {op : BitVec 8} {i : Instr} (h : (op, i) ∈ opcodeMap) : encode i = op.setWidth 32 := by
  have hrows : ∀ row ∈ opcodeMap, encode row.2 = row.1.setWidth 32 := by decide
  exact hrows _ h

theorem encode_of_decode {w : Word} {i : Instr} (h : decode w = .instr i) : encode i = w := by
  obtain ⟨hrsvd, hrow⟩ := fields_of_decode h
  rw [encode_of_row hrow, ← (rsvdField_eq_zero_iff w).mp hrsvd]

/-- Well-formedness, written from the illegal words, agrees with the decoder, written from the legal ones. -/
theorem wordWellFormed_iff_decodes (w : Word) : wordWellFormed w = true ↔ ∃ i, decode w = .instr i := by
  rw [wordWellFormed, Bool.and_eq_true, reservedBitsClear_iff, opcodeAssigned_iff]
  constructor
  · rintro ⟨hrsvd, hop⟩
    exact decode_isInstr hrsvd hop
  · rintro ⟨i, h⟩
    obtain ⟨hrsvd, hrow⟩ := fields_of_decode h
    exact ⟨hrsvd, List.mem_map_of_mem hrow⟩

/-- A word is rejected exactly when it is not well-formed. -/
theorem rejected_iff (w : Word) : (∃ r, decode w = .rejected r) ↔ wordWellFormed w = false := by
  rw [← Bool.not_eq_true, wordWellFormed_iff_decodes]
  cases decode w <;> simp

/-- An illegal command while CORE is not aborted (rule R72). -/
theorem issueCommand_rejected {w : Word} {r : Reject} {s : State} (hd : decode w = .rejected r)
    (ha : s.aborted = false) : issueCommand w s = .next (ends 0x24#32 0#32 0#32 s) := by
  rw [issueCommand, hd]
  exact unlessAborted_of_clear ha _

/-- Settles O2: encoding is the row's opcode, and the illegal ranges leave exactly the rows. -/
theorem decodeEncodeAgree : Obligations.DecodeEncodeAgree :=
  ⟨fun i => ⟨(wordWellFormed_iff_decodes _).mpr ⟨i, decode_encode i⟩, decode_encode i⟩, fun _ _ => encode_of_decode,
    wordWellFormed_iff_decodes⟩

/-- Settles O3: a rejected word is one that is not well-formed, which the check says by rule R72's ranges. -/
theorem illegalWordsAreRefused : Obligations.IllegalWordsAreRefused := by
  refine ⟨fun w => ?_, fun w => ?_, fun s v rest r ha hh hd => ?_⟩
  · rw [rejected_iff, wordWellFormed, Bool.and_eq_false_iff, opcodeAssigned_eq_false_iff]
    exact or_congr_left beq_eq_false_iff_ne
  · cases hd : decode w with
    | instr i => exact .inl ⟨i, rfl⟩
    | rejected r => exact .inr ⟨r, rfl⟩
  · rw [step_cmd hh]
    exact issueCommand_rejected hd ha

/-- Settles O1: the words written out are the commands' own words. -/
theorem tableWordsDecode : Obligations.TableWordsDecode :=
  ⟨decode_encode .keyexp80, decode_encode .keyexp128, decode_encode .enc, decode_encode .dec, decode_encode .dgInit,
    decode_encode .dgBlock, decode_encode .dgFinal, decode_encode .dgBuf, decode_encode .scramble,
    decode_encode .unscramble, decode_encode .pdsValidate, decode_encode .walkStart, decode_encode .walkNext,
    decode_encode .walkStop, decode_encode .find⟩

end Sys2Proof.Machine
end

section
namespace Sys2Proof.Machine

/-! The substitution and permutation layers (rules R100 to R104): each layer at a nibble or at a bit, and that the
inverse layers invert them. -/

@[simp] theorem sboxInv_sbox : ∀ x : BitVec 4, sboxInv (sbox x) = x := by decide

@[simp] theorem sbox_sboxInv : ∀ x : BitVec 4, sbox (sboxInv x) = x := by decide

/-- A function applied to each nibble on its own, read at one nibble. -/
theorem nib_bitsOf_map (f : BitVec 4 → BitVec 4) (s : Block) {n : Nat} (hn : n < 16) :
    nib (bitsOf 64 fun j => (f (nib s (j / 4))).getLsbD (j % 4)) n = f (nib s n) := by
  refine BitVec.eq_of_getLsbD_eq fun b hb => ?_
  have hpos : 4 * n + b < 64 := by omega
  have hdiv : (4 * n + b) / 4 = n := by omega
  have hmod : (4 * n + b) % 4 = b := by omega
  simp only [getLsbD_nib, getLsbD_bitsOf, hb, hpos, hdiv, hmod, decide_true, Bool.true_and]

@[simp] theorem nib_subLayer (s : Block) {n : Nat} (hn : n < 16) : nib (subLayer s) n = sbox (nib s n) :=
  nib_bitsOf_map sbox s hn

@[simp] theorem nib_invSubLayer (s : Block) {n : Nat} (hn : n < 16) : nib (invSubLayer s) n = sboxInv (nib s n) :=
  nib_bitsOf_map sboxInv s hn

/-- A block is determined by its sixteen nibbles. -/
theorem eq_of_nib_eq {s t : Block} (h : ∀ n < 16, nib s n = nib t n) : s = t := by
  refine BitVec.eq_of_getLsbD_eq fun i hi => ?_
  have hbit := congrArg (BitVec.getLsbD · (i % 4)) (h (i / 4) (by omega))
  have hlt : i % 4 < 4 := Nat.mod_lt i (by decide)
  simpa only [getLsbD_nib, hlt, decide_true, Bool.true_and, Nat.div_add_mod] using hbit

@[simp] theorem invSubLayer_subLayer (s : Block) : invSubLayer (subLayer s) = s :=
  eq_of_nib_eq fun n hn => by simp [hn]

@[simp] theorem subLayer_invSubLayer (s : Block) : subLayer (invSubLayer s) = s :=
  eq_of_nib_eq fun n hn => by simp [hn]

theorem perm_of_lt {i : Nat} (hi : i < 63) : perm i = 16 * i % 63 := if_neg (by omega)

theorem perm_lt (i : Nat) : perm i < 64 := by
  rw [perm]; split <;> omega

theorem permInv_lt (j : Nat) : permInv j < 64 := by
  rw [permInv]; split <;> omega

/-- P_INV inverts P: 4 · 16 = 64 is 1 modulo 63. -/
theorem permInv_perm {i : Nat} (hi : i < 64) : permInv (perm i) = i := by
  unfold perm permInv; split <;> split <;> omega

theorem perm_permInv {j : Nat} (hj : j < 64) : perm (permInv j) = j := by
  unfold perm permInv; split <;> split <;> omega

/-- P by nibbles: bit b of nibble n goes to bit n of the b-th 16-bit group. -/
theorem perm_nibble {n b : Nat} (hn : n < 16) (hb : b < 4) : perm (4 * n + b) = 16 * b + n := by
  unfold perm; split <;> omega

theorem getLsbD_permLayer (s : Block) {j : Nat} (hj : j < 64) : (permLayer s).getLsbD j = s.getLsbD (permInv j) := by
  rw [permLayer, getLsbD_bitsOf, decide_eq_true hj, Bool.true_and]

theorem getLsbD_invPermLayer (t : Block) {i : Nat} (hi : i < 64) :
    (invPermLayer t).getLsbD i = t.getLsbD (perm i) := by
  rw [invPermLayer, getLsbD_bitsOf, decide_eq_true hi, Bool.true_and]

/-- Rule R102 in its own words: bit P(i) of the result is bit i of s. -/
theorem getLsbD_permLayer_perm (s : Block) {i : Nat} (hi : i < 64) :
    (permLayer s).getLsbD (perm i) = s.getLsbD i := by
  rw [getLsbD_permLayer s (perm_lt i), permInv_perm hi]

@[simp] theorem invPermLayer_permLayer (s : Block) : invPermLayer (permLayer s) = s :=
  BitVec.eq_of_getLsbD_eq fun i hi => by rw [getLsbD_invPermLayer _ hi, getLsbD_permLayer_perm s hi]

@[simp] theorem permLayer_invPermLayer (t : Block) : permLayer (invPermLayer t) = t :=
  BitVec.eq_of_getLsbD_eq fun j hj => by
    rw [getLsbD_permLayer _ hj, getLsbD_invPermLayer t (permInv_lt j), perm_permInv hj]

/-- Settles O22: the two tables, entry by entry. -/
theorem sboxInverse : Obligations.SboxInverse := fun x => ⟨sboxInv_sbox x, sbox_sboxInv x⟩

/-- Settles O23: each layer at a nibble, and the rule's examples by evaluation. -/
theorem subLayerNibbleByNibble : Obligations.SubLayerNibbleByNibble :=
  ⟨fun s _ hn => ⟨nib_subLayer s hn, nib_invSubLayer s hn⟩, by decide +kernel, by decide +kernel,
    by decide +kernel, by decide +kernel, by decide +kernel⟩

/-- Settles O24: each clause is the layer at P(i), with P's value there. -/
theorem permLayerMovesBits : Obligations.PermLayerMovesBits := by
  refine ⟨fun s i hi => ?_, fun s => ?_, fun s n b hn hb => ?_, fun t i hi => ?_, fun t => ?_⟩
  · rw [← perm_of_lt hi, getLsbD_permLayer_perm s (by omega)]
  · exact getLsbD_permLayer_perm s (i := 63) (by decide)
  · rw [← perm_nibble hn hb, getLsbD_permLayer_perm s (by omega)]
  · rw [← perm_of_lt hi, getLsbD_invPermLayer t (by omega)]
  · exact getLsbD_invPermLayer t (i := 63) (by decide)

end Sys2Proof.Machine
end

section
namespace Sys2Proof.Machine

/-! The key schedules (rules R105 to R107): the sequence of key states behind the round keys, and one update of the key
state, field by field. -/

/-- Key state i of the schedule that starts from k with counter value ctr. -/
def keyState {w : Nat} (next : Nat → BitVec w → BitVec w) (ctr : Nat) (k : BitVec w) : Nat → BitVec w
  | 0 => k
  | i + 1 => next (ctr + i) (keyState next ctr k i)

/-- The key states after the first are the schedule from the second key state on. -/
theorem keyState_next {w : Nat} (next : Nat → BitVec w → BitVec w) (ctr : Nat) (k : BitVec w) (i : Nat) :
    keyState next (ctr + 1) (next ctr k) i = keyState next ctr k (i + 1) := by
  induction i with
  | zero => rfl
  | succ i ih => rw [keyState, ih, Nat.add_right_comm ctr 1 i]; rfl

/-- Round key i is the top of key state i. -/
theorem getElem_scheduleFrom {w : Nat} (next : Nat → BitVec w → BitVec w) (top : BitVec w → Block) (n ctr : Nat)
    (k : BitVec w) (i : Nat) (h : i < (scheduleFrom next top n ctr k).length) :
    (scheduleFrom next top n ctr k)[i] = top (keyState next ctr k i) := by
  induction n generalizing ctr k i with
  | zero => exact absurd h (Nat.not_lt_zero i)
  | succ n ih =>
    cases i with
    | zero => rfl
    | succ i =>
      rw [← keyState_next]
      exact ih (ctr + 1) (next ctr k) i _

/-- A rotation left by 61 puts the low part of the key on top. -/
theorem rotateLeft_rot_eq_append {m : Nat} (hm : 0 < m) (k : BitVec (m + 61)) :
    k.rotateLeft Config.rot = k.extractLsb' 0 m ++ k.extractLsb' m 61 := by
  refine BitVec.eq_of_getLsbD_eq fun i hi => ?_
  have hrot : Config.rot % (m + 61) = 61 := Nat.mod_eq_of_lt (show 61 < m + 61 by omega)
  rw [BitVec.getLsbD_rotateLeft, hrot, BitVec.getLsbD_append]
  by_cases hlow : i < 61
  · simp [hlow]
  · have htop : i - 61 < m := by omega
    simp [hlow, htop, hi]

section
variable {w ctr off start len : Nat}

/-- The counter, XORed in at bit off, does not reach the bits below. -/
theorem extractLsb'_counter_below (h : start + len ≤ off) :
    (BitVec.ofNat w ctr <<< off).extractLsb' start len = 0#len := by
  refine BitVec.eq_of_getLsbD_eq fun i hi => ?_
  have hlt : start + i < off := by omega
  simp [BitVec.getLsbD_shiftLeft, hlt]

/-- A five-bit counter, XORed in at bit off, does not reach the bits above off + 4. -/
theorem extractLsb'_counter_above (hctr : ctr < 32) (h : off + 5 ≤ start) :
    (BitVec.ofNat w ctr <<< off).extractLsb' start len = 0#len := by
  refine BitVec.eq_of_getLsbD_eq fun i hi => ?_
  have hpow : 2 ^ 5 ≤ 2 ^ (start + i - off) := Nat.pow_le_pow_right (by decide) (by omega)
  have hbit : ctr.testBit (start + i - off) = false := Nat.testBit_lt_two_pow (hctr.trans_le hpow)
  simp [BitVec.getLsbD_shiftLeft, BitVec.getLsbD_ofNat, hbit]

/-- The counter, XORed in at bit off, read where it stands. -/
theorem extractLsb'_counter (h : off + len ≤ w) :
    (BitVec.ofNat w ctr <<< off).extractLsb' off len = BitVec.ofNat len ctr := by
  refine BitVec.eq_of_getLsbD_eq fun i hi => ?_
  have hw : off + i < w := by omega
  have hw' : i < w := by omega
  rw [BitVec.getLsbD_extractLsb', BitVec.getLsbD_shiftLeft, Nat.add_sub_cancel_left, BitVec.getLsbD_ofNat,
    BitVec.getLsbD_ofNat]
  simp [hi, hw, hw']

end

/-- A range below the substituted nibbles reads the rotated key itself. -/
theorem extractLsb'_append_low {h m w start len : Nat} {top : BitVec h} {r : BitVec w} (hle : start + len ≤ m) :
    (top ++ r.extractLsb' 0 m).extractLsb' start len = r.extractLsb' start len := by
  rw [BitVec.extractLsb'_append_eq_of_add_le hle, BitVec.extractLsb'_extractLsb'_of_le hle]

/-- Steps 2 to 4 of rule R105, bit range by bit range. -/
theorem nextKey80_fields {ctr : Nat} (hctr : ctr < 32) {k r : BitVec 80}
    (hr : r = k.extractLsb' 0 19 ++ k.extractLsb' 19 61) :
    (nextKey80 ctr k).extractLsb' 76 4 = sbox (r.extractLsb' 76 4) ∧
      (nextKey80 ctr k).extractLsb' 20 56 = r.extractLsb' 20 56 ∧
      (nextKey80 ctr k).extractLsb' 15 5 = r.extractLsb' 15 5 ^^^ BitVec.ofNat 5 ctr ∧
      (nextKey80 ctr k).extractLsb' 0 15 = r.extractLsb' 0 15 := by
  obtain rfl : r = k.rotateLeft Config.rot := hr.trans (rotateLeft_rot_eq_append (m := 19) (by decide) k).symm
  simp only [nextKey80, Config.ctrOff80, BitVec.extractLsb'_xor]
  refine ⟨?_, ?_, ?_, ?_⟩
  · rw [extractLsb'_counter_above hctr (by decide), BitVec.xor_zero, BitVec.extractLsb'_append_eq_left]
  · rw [extractLsb'_counter_above hctr (by decide), BitVec.xor_zero, extractLsb'_append_low (by decide)]
  · rw [extractLsb'_counter (by decide), extractLsb'_append_low (by decide)]
  · rw [extractLsb'_counter_below (by decide), BitVec.xor_zero, extractLsb'_append_low (by decide)]

/-- Steps 2 to 4 of rule R106, bit range by bit range. -/
theorem nextKey128_fields {ctr : Nat} (hctr : ctr < 32) {k r : Quad}
    (hr : r = k.extractLsb' 0 67 ++ k.extractLsb' 67 61) :
    (nextKey128 ctr k).extractLsb' 124 4 = sbox (r.extractLsb' 124 4) ∧
      (nextKey128 ctr k).extractLsb' 120 4 = sbox (r.extractLsb' 120 4) ∧
      (nextKey128 ctr k).extractLsb' 67 53 = r.extractLsb' 67 53 ∧
      (nextKey128 ctr k).extractLsb' 62 5 = r.extractLsb' 62 5 ^^^ BitVec.ofNat 5 ctr ∧
      (nextKey128 ctr k).extractLsb' 0 62 = r.extractLsb' 0 62 := by
  obtain rfl : r = k.rotateLeft Config.rot := hr.trans (rotateLeft_rot_eq_append (m := 67) (by decide) k).symm
  simp only [nextKey128, Config.ctrOff128, BitVec.extractLsb'_xor]
  refine ⟨?_, ?_, ?_, ?_, ?_⟩
  · rw [extractLsb'_counter_above hctr (by decide), BitVec.xor_zero, BitVec.extractLsb'_append_eq_of_le (by decide),
      BitVec.extractLsb'_append_eq_left]
  · rw [extractLsb'_counter_above hctr (by decide), BitVec.xor_zero, BitVec.extractLsb'_append_eq_of_le (by decide),
      BitVec.extractLsb'_append_eq_right]
  · rw [extractLsb'_counter_above hctr (by decide), BitVec.xor_zero, extractLsb'_append_low (by decide)]
  · rw [extractLsb'_counter (by decide), extractLsb'_append_low (by decide)]
  · rw [extractLsb'_counter_below (by decide), BitVec.xor_zero, extractLsb'_append_low (by decide)]

/-- Settles O25: the key states are the iterates of the schedule's update. -/
theorem expand80KeyStates : Obligations.Expand80KeyStates := fun K =>
  ⟨keyState nextKey80 1 K, rfl, fun _ _ => getElem_scheduleFrom ..,
    fun i hi _ hr => by rw [keyState, Nat.add_comm 1 i]; exact nextKey80_fields (by omega) hr⟩

/-- Settles O26: the key states are the iterates of the schedule's update. -/
theorem expand128KeyStates : Obligations.Expand128KeyStates := fun K =>
  ⟨keyState nextKey128 1 K, rfl, fun _ _ => getElem_scheduleFrom ..,
    fun i hi _ hr => by rw [keyState, Nat.add_comm 1 i]; exact nextKey128_fields (by omega) hr⟩

end Sys2Proof.Machine
end

section
namespace Sys2Proof.Machine

/-! Enc and Dec (rules R108, R109): their states round by round, and that each inverts the other. -/

@[simp] theorem decRound_encRound (rk s : Block) : decRound rk (encRound s rk) = s := by
  simp [decRound, encRound]

@[simp] theorem encRound_decRound (rk s : Block) : encRound (decRound rk s) rk = s := by
  simp [decRound, encRound]

theorem foldr_decRound_foldl_encRound (rks : List Block) (s : Block) :
    rks.foldr decRound (rks.foldl encRound s) = s := by
  induction rks generalizing s with
  | nil => rfl
  | cons rk rks ih => simp [ih]

theorem foldl_encRound_foldr_decRound (rks : List Block) (s : Block) :
    rks.foldl encRound (rks.foldr decRound s) = s := by
  induction rks with
  | nil => rfl
  | cons rk rks ih => simp [ih]

theorem decBlock_encBlock (rk : Vector Block 32) (b : Block) : decBlock rk (encBlock rk b) = b := by
  rw [decBlock, encBlock, foldr_decRound_foldl_encRound, BitVec.xor_assoc, BitVec.xor_self, BitVec.xor_zero]

theorem encBlock_decBlock (rk : Vector Block 32) (b : Block) : encBlock rk (decBlock rk b) = b := by
  rw [decBlock, encBlock, BitVec.xor_assoc, BitVec.xor_self, BitVec.xor_zero, foldl_encRound_foldr_decRound]

/-- The cipher state after i rounds of Enc. -/
def encState (rk : Vector Block 32) (b : Block) (i : Nat) : Block :=
  (rk.toList.tail.take i).foldl encRound (b ^^^ rk[0])

/-- The cipher state before Dec's round i, and after its rounds 31 down to i + 1. -/
def decState (rk : Vector Block 32) (c : Block) (i : Nat) : Block := (rk.toList.tail.drop i).foldr decRound c

theorem encState_succ (rk : Vector Block 32) (b : Block) {i : Nat} (h : i + 1 < 32) :
    encState rk b (i + 1) = encRound (encState rk b i) rk[i + 1] := by
  have hlen : i < rk.toList.tail.length := by simp; omega
  rw [encState, ← List.take_append_getElem hlen, List.foldl_concat, List.getElem_tail, Vector.getElem_toList,
    encState]

theorem decState_of_succ (rk : Vector Block 32) (c : Block) {i : Nat} (h : i + 1 < 32) :
    decState rk c i = decRound rk[i + 1] (decState rk c (i + 1)) := by
  have hlen : i < rk.toList.tail.length := by simp; omega
  rw [decState, List.drop_eq_getElem_cons hlen, List.foldr_cons, List.getElem_tail, Vector.getElem_toList, decState]

/-- Settles O27: the states of Enc, the last after all 31 rounds. -/
theorem encRounds : Obligations.EncRounds := by
  refine fun rk b => ⟨encState rk b, rfl, fun i h hi => ?_, ?_⟩
  · obtain ⟨j, rfl⟩ := Nat.exists_eq_add_of_le' hi
    exact encState_succ rk b h
  · rw [encState, List.take_of_length_le (by simp), encBlock]

/-- Settles O28: the states of Dec, counted down. -/
theorem decRounds : Obligations.DecRounds := by
  refine fun rk c => ⟨decState rk c, ?_, fun i h hi => ?_, rfl⟩
  · rw [decState, List.drop_of_length_le (by simp), List.foldr_nil]
  · obtain ⟨j, rfl⟩ := Nat.exists_eq_add_of_le' hi
    exact decState_of_succ rk c h

end Sys2Proof.Machine
end

section
namespace Sys2Proof.Machine

/-! The cipher commands (rules R110 to R114): what each answers while ABORTED = 0. -/

section
variable {s : State} (ha : s.aborted = false)
include ha

theorem exec_keyexp80 : exec .keyexp80 s =
    .next (finish .ok 0#32 0#32 { s with rk := expand80 (shortKey s), rkv := true, keyin := 0#128 }) :=
  unlessAborted_of_clear ha _

theorem exec_keyexp128 : exec .keyexp128 s =
    .next (finish .ok 0#32 0#32 { s with rk := expand128 s.keyin, rkv := true, keyin := 0#128 }) :=
  unlessAborted_of_clear ha _

/-- ENC's and DEC's check of RKV comes right after that of ABORTED (rule R188). -/
theorem exec_enc : exec .enc s = requireFlag s.rkv .noKey s
    (.next (finish .ok 0#32 0#32 { s with blkout := encBlock s.rk s.blkin })) :=
  unlessAborted_of_clear ha _

theorem exec_dec : exec .dec s = requireFlag s.rkv .noKey s
    (.next (finish .ok 0#32 0#32 { s with blkout := decBlock s.rk s.blkin })) :=
  unlessAborted_of_clear ha _

end

/-- Settles O30: KEYEXP80's answer, KEYIN[79:0] being its operand. -/
theorem keyexp80Result : Obligations.Keyexp80Result := fun _ ha => exec_keyexp80 ha

/-- Settles O31: KEYEXP128's answer. -/
theorem keyexp128Result : Obligations.Keyexp128Result := fun _ ha => exec_keyexp128 ha

/-- Settles O32: the check of RKV passes. -/
theorem encDecResult : Obligations.EncDecResult := by
  intro s ha hrkv
  rw [exec_enc ha, exec_dec ha, hrkv, requireFlag_of_set, requireFlag_of_set]
  exact ⟨rfl, rfl⟩

/-- Settles O33: the check of RKV refuses. -/
theorem encDecNeedSchedule : Obligations.EncDecNeedSchedule := by
  intro s ha hrkv
  rw [exec_enc ha, exec_dec ha, hrkv, requireFlag_of_clear, requireFlag_of_clear]
  exact ⟨rfl, rfl⟩

/-- Settles O29: ENC leaves RK, RKV and ABORTED, so DEC of its result runs Dec under the same schedule. -/
theorem decryptionInvertsEncryption : Obligations.DecryptionInvertsEncryption := by
  refine ⟨fun rk b => ⟨decBlock_encBlock rk b, encBlock_decBlock rk b⟩, fun s t ha hrkv h => ?_⟩
  obtain rfl : _ = t := Host.Outcome.next.inj ((encDecResult s ha hrkv).1.symm.trans h)
  exact ⟨_, (encDecResult _ (by exact ha) (by exact hrkv)).2, decBlock_encBlock s.rk s.blkin⟩

end Sys2Proof.Machine
end

section
namespace Sys2Proof.Machine

/-! PairKey and the digest's data (rules R121 to R123). -/

/-- Settles O37: PairKey is a concatenation, and a byte sequence's register value has the first bytes low. -/
theorem pairKeyHalves : Obligations.PairKeyHalves := by
  refine ⟨fun a b => ⟨?_, ?_⟩, fun x y hx _ => leBits_append 64 64 x y (by omega)⟩
  · rw [pairKey, BitVec.extractLsb'_append_eq_right]
  · rw [pairKey, BitVec.extractLsb'_append_eq_left]

/-- An even number of blocks leaves no block over: what follows starts a new pair. -/
theorem absorb_append (a : Block) (x y : List Block) (hx : x.length % 2 = 0) :
    absorb a (x ++ y) = absorb (absorb a x) y := by
  induction a, x using absorb.induct with
  | case1 a => rfl
  | case2 a w => simp at hx
  | case3 a w w' ws ih =>
    simp only [List.length_cons] at hx
    exact ih (by omega)

/-- The accumulator after the first j pairs of w (rule R123). -/
def pairsAbsorbed (iv : Block) (w : List Block) (j : Nat) : Block := absorb iv (w.take (2 * j))

theorem pairsAbsorbed_succ (iv : Block) (w : List Block) {j : Nat} (h : 2 * j + 1 < w.length) :
    pairsAbsorbed iv w (j + 1) = compress (pairsAbsorbed iv w j) (pairKey w[2 * j] w[2 * j + 1]) := by
  have htake : w.take (2 * (j + 1)) = w.take (2 * j) ++ [w[2 * j], w[2 * j + 1]] := by
    rw [show 2 * (j + 1) = 2 * j + 1 + 1 by omega, List.take_succ_eq_append_getElem h,
      List.take_succ_eq_append_getElem (by omega), List.append_assoc, List.singleton_append]
  rw [pairsAbsorbed, htake, absorb_append _ _ _ (by rw [List.length_take]; omega)]
  rfl

theorem absorb_of_even (iv : Block) (w : List Block) (h : w.length % 2 = 0) :
    absorb iv w = pairsAbsorbed iv w (w.length / 2) := by
  rw [pairsAbsorbed, List.take_of_length_le (by omega)]

theorem absorb_of_odd (iv : Block) (w : List Block) (h : w.length % 2 = 1) :
    absorb iv w = compress (pairsAbsorbed iv w (w.length / 2)) (pairKey w[w.length - 1] w[w.length - 1]) := by
  have hsplit : w.take (w.length - 1) ++ [w[w.length - 1]] = w := by
    rw [← List.take_succ_eq_append_getElem, List.take_of_length_le (by omega)]
  rw [pairsAbsorbed, show 2 * (w.length / 2) = w.length - 1 by omega]
  conv_lhs => rw [← hsplit, absorb_append _ _ _ (by rw [List.length_take]; omega)]
  rfl

/-- Settles O38: accumulator j has absorbed the first j pairs. -/
theorem digestCompressions : Obligations.DigestCompressions := fun w iv c =>
  ⟨pairsAbsorbed iv w, rfl, fun _ h => pairsAbsorbed_succ iv w h,
    fun h => congrArg (compress · c) (absorb_of_even iv w h), fun h => congrArg (compress · c) (absorb_of_odd iv w h),
    fun _ => rfl⟩

end Sys2Proof.Machine
end

section
namespace Sys2Proof.Machine

/-! The digest commands (rules R124 to R128): what each answers while ABORTED = 0. -/

/-- Inside the buffer block j is the eight bytes from 8j on (rule R65). -/
theorem readBlocks_of_le {s : State} {j n : Nat} (h : 8 * (j + n) ≤ s.buflen.toNat) :
    readBlocks s j n = some ((List.range n).map fun i => u64At s (8 * (j + i))) := by
  induction n generalizing j with
  | zero => rfl
  | succ n ih =>
    have hw : memRead64 s (8 * j) = some (u64At s (8 * j)) :=
      (memRead_of_le (by omega)).trans (congrArg some (leBits_bufBytes_eight s (8 * j)))
    simp [readBlocks, hw, ih (j := j + 1) (by omega), List.range_succ_eq_map, Nat.add_assoc, Nat.add_comm 1]

section
variable {s : State} (ha : s.aborted = false)
include ha

theorem exec_dgInit : exec .dgInit s =
    .next (finish .ok 0#32 0#32 { s with acc := s.dgiv, hold := 0#64, holdv := false, dgact := true }) :=
  unlessAborted_of_clear ha _

/-- DG_BLOCK's and DG_FINAL's check of DGACT comes right after that of ABORTED (rule R188). -/
theorem exec_dgBlock : exec .dgBlock s = requireFlag s.dgact .noDigest s (
    if s.holdv then .next (finish .ok 0#32 0#32
      { s with acc := compress s.acc (pairKey s.hold s.blkin), hold := 0#64, holdv := false })
    else .next (finish .ok 0#32 0#32 { s with hold := s.blkin, holdv := true })) :=
  unlessAborted_of_clear ha _

theorem exec_dgFinal : exec .dgFinal s = requireFlag s.dgact .noDigest s (.next (finish .ok 0#32 0#32 { s with
    dgout := compress (if s.holdv then compress s.acc (pairKey s.hold s.hold) else s.acc) s.dgconst,
    acc := 0#64, hold := 0#64, holdv := false, dgact := false })) :=
  unlessAborted_of_clear ha _

theorem exec_dgBuf (h8 : s.buflen.toNat % 8 = 0) : exec .dgBuf s = .next (finish .ok 0#32 0#32 { s with
    dgout := digest ((List.range (s.buflen.toNat / 8)).map fun j => u64At s (8 * j)) s.dgiv s.dgconst }) := by
  have hread := readBlocks_of_le (s := s) (j := 0) (n := s.buflen.toNat / 8) (by omega)
  simp only [Nat.zero_add] at hread
  rw [exec, execDgBuf, unlessAborted_of_clear ha, if_neg (by omega), hread]
  rfl

end

/-- Settles O39: DG_INIT's answer, the digest in progress not being read. -/
theorem dgInitResult : Obligations.DgInitResult := fun _ ha => exec_dgInit ha

/-- Settles O40: the check of DGACT passes, and HOLDV chooses. -/
theorem dgBlockResult : Obligations.DgBlockResult := by
  intro s ha hd
  rw [exec_dgBlock ha, hd, requireFlag_of_set]
  exact ⟨fun hh => if_neg (by simp [hh]), fun hh => if_pos hh⟩

/-- Settles O41: the check of DGACT passes, and HOLDV chooses the accumulator to finalise. -/
theorem dgFinalResult : Obligations.DgFinalResult := by
  intro s ha hd
  rw [exec_dgFinal ha, hd, requireFlag_of_set]
  exact ⟨fun hh => by rw [hh]; rfl, fun hh => by rw [hh]; rfl⟩

/-- Settles O42: the check of DGACT refuses. -/
theorem digestNeedsInit : Obligations.DigestNeedsInit := by
  intro s ha hd
  rw [exec_dgBlock ha, exec_dgFinal ha, hd, requireFlag_of_clear, requireFlag_of_clear]
  exact ⟨rfl, rfl⟩

/-- Settles O43: every read lies in the buffer, and the blocks read are the eight-byte fields. -/
theorem dgBufResult : Obligations.DgBufResult := fun _ ha h8 => exec_dgBuf ha h8

end Sys2Proof.Machine
end

section
namespace Sys2Proof.Machine

/-! The streaming host sequence of rule R83, and its agreement with DG_BUF (rule R129). -/

/-- A register value written as a number is stored whole. -/
theorem ofNat_toNat_width {n : Nat} (v : BitVec n) : BitVec.ofNat n v.toNat = v := by
  rw [BitVec.ofNat_toNat, BitVec.setWidth_eq]

theorem exec_host {i : Instr} {s t : State} (h : exec i s = .next t) : t.host = s.host := by
  obtain ⟨-, -, -, -, -, -, -, -, -, -, -, -, -, -, -, -, -, hhost, -⟩ := commandFrame i s t h
  exact hhost

/-- A command as the first of the host's moves: the moves after it stay pending. -/
theorem runMoves_cmd_cons {i : Instr} {ms : List HostMove} {s t : State} (h : exec i { s with host := ms } = .next t) :
    runMoves (cmdMove (encode i) :: ms) s = runMoves ms t := by
  refine runMoves_cons ((step_cmd rfl).trans ?_) (exec_host h)
  rw [ofNat_toNat_width, issueCommand_encode]
  exact h

/-- A write of an operand register as the first of the host's moves. -/
theorem runMoves_write {no v : Nat} {ms : List HostMove} {s t : State} (hno : no ≠ 0x00)
    (h : hostWrite no v { s with host := ms } = t) (ht : t.host = ms) :
    runMoves (.write no v :: ms) s = runMoves ms t :=
  runMoves_cons ((step_write rfl hno).trans (congrArg _ h)) ht

section
variable (ms : List HostMove) (s : State)

theorem runMoves_wrDgiv (iv : Block) :
    runMoves (.write 0x0B iv.toNat :: ms) s = runMoves ms { s with host := ms, dgiv := iv } :=
  runMoves_write (by decide)
    (congrArg (fun v => ({ s with host := ms, dgiv := v } : State)) (ofNat_toNat_width iv)) rfl

theorem runMoves_wrBlock (b : Block) :
    runMoves (wrBlock b :: ms) s = runMoves ms { s with host := ms, blkin := b } :=
  runMoves_write (by decide)
    (congrArg (fun v => ({ s with host := ms, blkin := v } : State)) (ofNat_toNat_width b)) rfl

theorem runMoves_wrDgconst (c : Quad) :
    runMoves (.write 0x0C c.toNat :: ms) s = runMoves ms { s with host := ms, dgconst := c } :=
  runMoves_write (by decide)
    (congrArg (fun v => ({ s with host := ms, dgconst := v } : State)) (ofNat_toNat_width c)) rfl

end

/-- The held block, if there is one, as the digest's data not yet compressed. -/
def State.held (s : State) : List Block := if s.holdv then [s.hold] else []

/-- A digest is in progress and has taken in the blocks w after the initial value iv: whatever blocks follow, they are
absorbed from ACC and the held block as from iv and w. -/
structure State.Streamed (iv : Block) (w : List Block) (s : State) : Prop where
  aborted : s.aborted = false
  dgact : s.dgact = true
  absorbed : ∀ rest, absorb s.acc (s.held ++ rest) = absorb iv (w ++ rest)

/-- It depends on ABORTED and the digest context alone, so no operand write disturbs it. -/
theorem State.Streamed.of_context {iv : Block} {w : List Block} {s t : State} (hs : s.Streamed iv w)
    (haborted : t.aborted = s.aborted) (hdgact : t.dgact = s.dgact) (hacc : t.acc = s.acc) (hhold : t.hold = s.hold)
    (hholdv : t.holdv = s.holdv) : t.Streamed iv w where
  aborted := haborted.trans hs.aborted
  dgact := hdgact.trans hs.dgact
  absorbed := by simpa only [State.held, hacc, hhold, hholdv] using hs.absorbed

theorem exec_dgInit_streamed {s : State} (ha : s.aborted = false) :
    ∃ t, exec .dgInit s = .next t ∧ t.Streamed s.dgiv [] :=
  ⟨_, exec_dgInit ha, ha, rfl, fun _ => rfl⟩

/-- DG_BLOCK appends BLKIN, held as the first of a pair or compressed as the second. -/
theorem State.Streamed.exec_dgBlock {iv : Block} {w : List Block} {s : State} (hs : s.Streamed iv w) :
    ∃ t, exec .dgBlock s = .next t ∧ t.Streamed iv (w ++ [s.blkin]) := by
  obtain ⟨ha, hd, habsorb⟩ := hs
  obtain ⟨hfirst, hsecond⟩ := dgBlockResult s ha hd
  have hnext (rest : List Block) : absorb s.acc (s.held ++ s.blkin :: rest) = absorb iv (w ++ [s.blkin] ++ rest) := by
    rw [habsorb, List.append_assoc, List.singleton_append]
  cases hh : s.holdv with
  | false =>
    exact ⟨_, hfirst hh, ha, hd, fun rest => by simpa [State.held, hh] using hnext rest⟩
  | true =>
    exact ⟨_, hsecond hh, ha, hd, fun rest => by simpa [State.held, hh, absorb, pairKey] using hnext rest⟩

/-- DG_FINAL's self-pairing of a held block is the digest's of its last unpaired one. -/
theorem State.Streamed.exec_dgFinal {iv : Block} {w : List Block} {s : State} (hs : s.Streamed iv w) :
    ∃ t, exec .dgFinal s = .next t ∧ t.dgout = digest w iv s.dgconst ∧ t.status = 0x00#32 := by
  obtain ⟨ha, hd, habsorb⟩ := hs
  obtain ⟨hnone, hheld⟩ := dgFinalResult s ha hd
  have hdata : absorb s.acc s.held = absorb iv w := by simpa using habsorb []
  cases hh : s.holdv with
  | false =>
    rw [State.held, hh] at hdata
    exact ⟨_, hnone hh, congrArg (compress · s.dgconst) hdata, rfl⟩
  | true =>
    rw [State.held, hh] at hdata
    exact ⟨_, hheld hh, congrArg (compress · s.dgconst) hdata, rfl⟩

/-- Feeding blocks one by one appends them. -/
theorem State.Streamed.runMoves_feedBlocks {iv : Block} {w : List Block} {s : State} (hs : s.Streamed iv w)
    (ws : List Block) (ms : List HostMove) :
    ∃ t, runMoves (ws.flatMap feedBlock ++ ms) s = runMoves ms t ∧ t.Streamed iv (w ++ ws) := by
  induction ws generalizing w s with
  | nil => exact ⟨s, rfl, by simpa using hs⟩
  | cons b ws ih =>
    have hblk : ({ s with host := ws.flatMap feedBlock ++ ms, blkin := b } : State).Streamed iv w :=
      hs.of_context rfl rfl rfl rfl rfl
    obtain ⟨t, ht, hts⟩ := hblk.exec_dgBlock
    obtain ⟨u, hu, hus⟩ := ih hts
    exact ⟨u, (runMoves_wrBlock _ s b).trans ((runMoves_cmd_cons ht).trans hu), by simpa using hus⟩

/-- The end of the sequence: `WR DGCONST`; `DG_FINAL`; `RD DGOUT`. -/
theorem State.Streamed.runMoves_close {iv : Block} {w : List Block} {s : State} (hs : s.Streamed iv w) (c : Quad) :
    ∃ t, runMoves [.write 0x0C c.toNat, cmdMove (encode .dgFinal), .read 0x0D] s = .next t ∧
      t.dgout = digest w iv c ∧ t.status = 0x00#32 := by
  have hc : ({ s with host := [.read 0x0D], dgconst := c } : State).Streamed iv w :=
    hs.of_context rfl rfl rfl rfl rfl
  obtain ⟨t, ht, hdgout, hstatus⟩ := hc.exec_dgFinal
  exact ⟨{ t with host := [], readData := hostRead 0x0D t },
    (runMoves_wrDgconst _ s c).trans ((runMoves_cmd_cons ht).trans (runMoves_read 0x0D t)), hdgout, hstatus⟩

/-- The streaming host sequence, from any state not aborted: DG_INIT, every block, the end. -/
theorem runMoves_apiDigestStream (w : List Block) (iv : Block) (c : Quad) {s : State} (ha : s.aborted = false) :
    ∃ t, runMoves (apiDigestStream w iv c) s = .next t ∧ t.dgout = digest w iv c ∧ t.status = 0x00#32 := by
  rw [apiDigestStream, List.append_assoc]
  obtain ⟨t, ht, htw⟩ := exec_dgInit_streamed (s := { s with host := w.flatMap feedBlock ++ _, dgiv := iv }) ha
  obtain ⟨u, hu, huw⟩ := htw.runMoves_feedBlocks w _
  obtain ⟨v, hv, hresult⟩ := huw.runMoves_close c
  exact ⟨v, (runMoves_wrDgiv _ s iv).trans ((runMoves_cmd_cons ht).trans (hu.trans hv)), hresult⟩

/-- Settles O44: both sides are the digest of w, the streamed one by absorbing block by block, the buffer's by its
blocks being w. -/
theorem streamingEqualsWholeBuffer : Obligations.StreamingEqualsWholeBuffer := by
  intro w iv c s ha
  obtain ⟨t, ht, hdgout, hstatus⟩ := runMoves_apiDigestStream w iv c ha
  refine ⟨t, ht, hdgout, hstatus, fun u hau hiv hc hlen hblocks => ⟨_, exec_dgBuf hau (by omega), ?_, rfl⟩⟩
  have hw : ((List.range (u.buflen.toNat / 8)).map fun j => u64At u (8 * j)) = w :=
    List.ext_getElem (by simp; omega) fun j _ hj => by simpa using hblocks j hj
  rw [finish_dgout, hw, hiv, hc, hdgout]

end Sys2Proof.Machine
end

section
namespace Sys2Proof.Machine

/-! SCRAMBLE and UNSCRAMBLE (rules R140, R141): what each answers while ABORTED = 0, and how they agree with the cipher
commands and with each other. -/

section
variable {s : State} (ha : s.aborted = false)
include ha

theorem exec_scramble : exec .scramble s =
    .next (finish .ok 0#32 0#32 { s with blkout := encBlock (expand128 s.keyin) s.blkin, keyin := 0#128 }) :=
  unlessAborted_of_clear ha _

theorem exec_unscramble : exec .unscramble s =
    .next (finish .ok 0#32 0#32 { s with blkout := decBlock (expand128 s.keyin) s.blkin, keyin := 0#128 }) :=
  unlessAborted_of_clear ha _

/-- KEYEXP128 sets RKV, so the ENC after it runs, under the schedule of the key that stood in KEYIN. -/
theorem exec_keyexp128_enc : ∃ u v, exec .keyexp128 s = .next u ∧ exec .enc u = .next v ∧
    v.blkout = encBlock (expand128 s.keyin) s.blkin :=
  ⟨_, _, keyexp128Result s ha, (encDecResult _ (by exact ha) rfl).1, rfl⟩

end

/-- Settles O35: the two commands' answers. -/
theorem scrambleResult : Obligations.ScrambleResult := fun _ ha => ⟨exec_scramble ha, exec_unscramble ha⟩

/-- Settles O36: SCRAMBLE leaves ABORTED, so with the key written again UNSCRAMBLE runs Dec under the schedule of Enc. -/
theorem unscrambleInvertsScramble : Obligations.UnscrambleInvertsScramble := by
  intro s t ha h
  obtain rfl := execScramble_next ha h
  constructor
  · obtain ⟨u, v, hu, hv, hblkout⟩ := exec_keyexp128_enc ha
    exact ⟨u, v, hu, hv, hblkout.symm⟩
  · exact ⟨_, exec_unscramble (by exact ha), decBlock_encBlock (expand128 s.keyin) s.blkin⟩

end Sys2Proof.Machine
end

section
namespace Sys2Proof.Machine

/-! Crc (rule R150): each of its steps is invertible, so a changed byte is never lost. -/

/-- One round of rule R150. -/
def crcRound (c : Word) : Word := if c.getLsbD 31 then c <<< 1 ^^^ 0x04C11DB7#32 else c <<< 1

theorem crcRounds_succ (n : Nat) (c : Word) : crcRounds (n + 1) c = crcRounds n (crcRound c) :=
  (apply_ite (crcRounds n) ..).symm

/-- The polynomial has bit 0 set, so a round leaves the bit it shifts out in bit 0. -/
theorem getLsbD_zero_crcRound (c : Word) : (crcRound c).getLsbD 0 = c.getLsbD 31 := by
  unfold crcRound
  split
  · next h => simp [h]
  · next h => simpa using h

theorem crcRound_injective : Function.Injective crcRound := by
  intro c d h
  have hout : c.getLsbD 31 = d.getLsbD 31 := by rw [← getLsbD_zero_crcRound, h, getLsbD_zero_crcRound]
  have hkept : c <<< 1 = d <<< 1 := by
    unfold crcRound at h
    rw [hout] at h
    split at h
    · exact (BitVec.xor_left_inj _).mp h
    · exact h
  refine BitVec.eq_of_getLsbD_eq fun i hi => ?_
  by_cases hi31 : i = 31
  · rw [hi31, hout]
  · simpa [show i + 1 < 32 by omega, hi] using congrArg (BitVec.getLsbD · (i + 1)) hkept

theorem crcRounds_injective (n : Nat) : Function.Injective (crcRounds n) := by
  induction n with
  | zero => exact fun _ _ h => h
  | succ n ih => exact (funext (crcRounds_succ n)) ▸ ih.comp crcRound_injective

/-- For each byte, the next value determines the one before. -/
theorem crcByte_injective_left (b : Byte) : Function.Injective (crcByte · b) := fun _ _ h =>
  (BitVec.xor_left_inj _).mp (crcRounds_injective 8 h)

/-- The byte stands whole in bits 31:24, so from each value the next one determines it. -/
theorem crcByte_injective_right (c : Word) : Function.Injective (crcByte c) := by
  intro b d h
  have hshift : b.setWidth 32 <<< 24 = d.setWidth 32 <<< 24 := (BitVec.xor_right_inj _).mp (crcRounds_injective 8 h)
  refine BitVec.eq_of_getLsbD_eq fun i hi => ?_
  simpa [show i + 24 < 32 by omega, hi, show i < 32 by omega] using congrArg (BitVec.getLsbD · (i + 24)) hshift

theorem foldl_crcByte_injective (bs : List Byte) : Function.Injective (bs.foldl crcByte ·) := by
  induction bs with
  | nil => exact fun _ _ h => h
  | cons b bs ih => exact ih.comp (crcByte_injective_left b)

theorem crc_ne_of_byte_ne (x y : List Byte) {b b' : Byte} (hb : b ≠ b') : crc (x ++ b :: y) ≠ crc (x ++ b' :: y) := by
  intro h
  rw [crc, crc, List.foldl_append, List.foldl_append] at h
  exact hb (crcByte_injective_right _ (foldl_crcByte_injective y h))

/-- Settles O45: the changed byte changes the value after it, and every later byte keeps the two values apart. -/
theorem crcDetectsByteChange : Obligations.CrcDetectsByteChange :=
  ⟨fun x y _ _ => crc_ne_of_byte_ne x y, fun _ => rfl, rfl, fun _ _ => List.foldl_append, fun _ => rfl, crcRounds_succ⟩

end Sys2Proof.Machine
end

section
namespace Sys2Proof.Machine

/-! PDS_VALIDATE (rule R152): its answer while ABORTED = 0, check by check. -/

/-- A check of a command whose other outcome is a next state too. -/
theorem ite_next {p q : Prop} [Decidable p] [Decidable q] {k : Answer} {t u : State} (hpq : p ↔ q)
    (hk : ¬ p → k = .next u) : (if p then .next t else k) = .next (if q then t else u) := by
  by_cases hp : p
  · rw [if_pos hp, if_pos (hpq.mp hp)]
  · rw [if_neg hp, if_neg (hp ∘ hpq.mpr), hk hp]

theorem orFault_memRead32 {s : State} {off : Nat} (h : off + 4 ≤ s.buflen.toNat) (k : Word → Answer) :
    orFault (memRead32 s off) k = k (u32At s off) := by
  rw [memRead32_of_le h, leBits_bufBytes_four, orFault_some]

theorem orFault_memBytes {s : State} {off n : Nat} (h : off + n ≤ s.buflen.toNat) (k : List Byte → Answer) :
    orFault (memBytes s off n) k = k (bytesAt s off n) := by
  rw [memBytes_of_le h, bufBytes_eq_bytesAt, orFault_some]

/-- Step 6 and the success path, for a header that lies in the buffer. -/
theorem validateCrc_eq {s : State} (magic version : Word) {hsize : Word} (hlow : 148 ≤ hsize.toNat)
    (hhigh : hsize.toNat ≤ s.buflen.toNat) :
    validateCrc s magic version hsize = .next (
      if crc (bytesAt s 12 (hsize.toNat - 12)) ≠ u32At s 8 then
        ends 0x05#32 (u32At s 8) (crc (bytesAt s 12 (hsize.toNat - 12))) s
      else ends 0x00#32 0#32 0#32 { s with
        hdrMagic := magic, hdrSize := hsize, hdrCrc := u32At s 8, hdrVersion := version,
        hdrFirst := u32At s 16, hdrVstr := leBits 1024 (bytesAt s 20 128), hdrv := true }) := by
  have hc : Config.crcStart = 12 := rfl
  rw [validateCrc, orFault_memRead32 (by omega), orFault_memBytes (by omega)]
  refine ite_next Iff.rfl fun _ => ?_
  rw [orFault_memRead32 (by omega), orFault_memBytes (by omega)]
  rfl

/-- Settles O46: each check as the if it stands for, every read after it lying in the buffer. -/
theorem validateOutcome : Obligations.ValidateOutcome := by
  rintro s ha z rfl
  rw [exec, execPdsValidate, unlessAborted_of_clear ha, validateHeader]
  refine ite_next Iff.rfl fun hlen => ?_
  have hread {off : Nat} (h : off + 4 ≤ 148) (k : Word → Answer) :=
    orFault_memRead32 (Nat.le_trans h (Nat.le_of_not_lt hlen)) k
  rw [hread (by decide)]
  refine ite_next Iff.rfl fun hmagic => ?_
  rw [hread (by decide)]
  refine ite_next (Nat.lt_one_iff.trans (BitVec.toNat_eq (y := 0#32)).symm) fun hversion => ?_
  rw [hread (by decide)]
  refine ite_next Iff.rfl fun hlow => ite_next Iff.rfl fun hhigh => ?_
  rw [not_not.mp hmagic]
  exact validateCrc_eq _ _ (Nat.le_of_not_lt hlow) (Nat.le_of_not_lt hhigh)

end Sys2Proof.Machine
end

section
namespace Sys2Proof.Machine

/-! A changed byte of a valid header (rule R154). -/

/-- Steps 1 to 5 of rule R152 pass. -/
structure State.HeaderInBuffer (s : State) : Prop where
  hasHeader : 148 ≤ s.buflen.toNat
  magic : u32At s 0 = 0x50445331#32
  version : u32At s 12 ≠ 0#32
  sizeLow : 148 ≤ (u32At s 4).toNat
  sizeHigh : (u32At s 4).toNat ≤ s.buflen.toNat

/-- Crc of the range step 6 covers. -/
def coveredCrc (s : State) : Word := crc (bytesAt s 12 ((u32At s 4).toNat - 12))

section
variable {s : State} (ha : s.aborted = false)
include ha

/-- A buffer PDS_VALIDATE accepts passes every check, and HDR_SIZE is its header_size. -/
theorem exec_pdsValidate_accepts {t : State} (h : exec .pdsValidate s = .next t) (hok : t.status = 0x00#32) :
    s.HeaderInBuffer ∧ coveredCrc s = u32At s 8 ∧ t.hdrSize = u32At s 4 := by
  obtain rfl := Host.Outcome.next.inj ((validateOutcome s ha _ rfl).symm.trans h)
  split_ifs at hok ⊢ with hlen hmagic hversion hlow hhigh hcrc
  iterate 6 · cases hok
  · exact ⟨⟨Nat.le_of_not_lt hlen, not_not.mp hmagic, hversion, Nat.le_of_not_lt hlow, Nat.le_of_not_lt hhigh⟩,
      not_not.mp hcrc, rfl⟩

theorem exec_pdsValidate_badCrc (hs : s.HeaderInBuffer) (hcrc : coveredCrc s ≠ u32At s 8) :
    ∃ t, exec .pdsValidate s = .next t ∧ t.status = 0x05#32 ∧ t.hdrv = false := by
  obtain ⟨hlen, hmagic, hversion, hlow, hhigh⟩ := hs
  refine ⟨_, validateOutcome s ha _ rfl, ?_⟩
  rw [if_neg (Nat.not_lt.mpr hlen), if_neg (not_not.mpr hmagic), if_neg hversion, if_neg (Nat.not_lt.mpr hlow),
    if_neg (Nat.not_lt.mpr hhigh), if_pos (by exact hcrc)]
  exact ⟨rfl, rfl⟩

end

theorem bytesAt_congr {s t : State} {off n : Nat} (h : ∀ a, off ≤ a → a < off + n → bufByte t a = bufByte s a) :
    bytesAt t off n = bytesAt s off n :=
  List.map_congr_left fun j hj => h _ (by omega) (by have := List.mem_range.mp hj; omega)

/-- A range of the buffer, around one of its bytes. -/
theorem bytesAt_split (s : State) (off i n : Nat) :
    bytesAt s off (i + (n + 1)) = bytesAt s off i ++ bufByte s (off + i) :: bytesAt s (off + i + 1) n := by
  simp only [← bufBytes_eq_bytesAt]
  exact bufBytes_append s off i (n + 1)

section
variable {s : State} (hwf : Memory.wf s.buf = true) (off : Word) (v : Byte)
include hwf

theorem bufByte_placeByte_same : bufByte (placeByte off v s) off.toNat = v := Memory.read_write_same _ _ _ hwf

theorem bufByte_placeByte_other {a : Nat} (h : a ≠ off.toNat) : bufByte (placeByte off v s) a = bufByte s a :=
  Memory.read_write_other _ _ _ _ hwf h

theorem u32At_placeByte_below {a : Nat} (h : a + 4 ≤ off.toNat) : u32At (placeByte off v s) a = u32At s a := by
  have hother {b : Nat} (hb : b < a + 4) : bufByte (placeByte off v s) b = bufByte s b :=
    bufByte_placeByte_other hwf off v (by omega)
  rw [u32At, hother (by omega), hother (by omega), hother (by omega), hother (by omega), u32At]

/-- A different byte anywhere in a range changes the range's Crc. -/
theorem crc_bytesAt_placeByte_ne {a n : Nat} (hv : v ≠ bufByte s off.toNat) (hlow : a ≤ off.toNat)
    (hhigh : off.toNat < a + n) : crc (bytesAt (placeByte off v s) a n) ≠ crc (bytesAt s a n) := by
  obtain ⟨i, hi⟩ := Nat.exists_eq_add_of_le hlow
  obtain ⟨m, rfl⟩ := Nat.exists_eq_add_of_lt (show i < n by omega)
  have hbefore : bytesAt (placeByte off v s) a i = bytesAt s a i :=
    bytesAt_congr fun _ _ _ => bufByte_placeByte_other hwf off v (by omega)
  have hafter : bytesAt (placeByte off v s) (off.toNat + 1) m = bytesAt s (off.toNat + 1) m :=
    bytesAt_congr fun _ _ _ => bufByte_placeByte_other hwf off v (by omega)
  rw [Nat.add_assoc, bytesAt_split, bytesAt_split, ← hi, hbefore, hafter, bufByte_placeByte_same hwf]
  exact crc_ne_of_byte_ne _ _ hv

end

/-- Settles O47: the byte lies behind magic, header_size and header_crc, so the changed buffer passes steps 1 to 5 with
the same covered range and the same stored CRC, which the changed range no longer has. -/
theorem corruptedHeaderIsRejected : Obligations.CorruptedHeaderIsRejected := by
  intro s t off v hwf ha h hok hlow hhigh hv hversion
  obtain ⟨hs, hcrc, hsize⟩ := exec_pdsValidate_accepts ha h hok
  rw [hsize] at hhigh
  have hsize' := u32At_placeByte_below hwf off v (a := 4) (by omega)
  have hstored' := u32At_placeByte_below hwf off v (a := 8) (by omega)
  refine exec_pdsValidate_badCrc ha ⟨hs.hasHeader, ?_, hversion, ?_, ?_⟩ ?_
  · rw [u32At_placeByte_below hwf off v (by omega), hs.magic]
  · exact hsize'.symm ▸ hs.sizeLow
  · exact hsize'.symm ▸ hs.sizeHigh
  · rw [coveredCrc, hsize', hstored', ← hcrc]
    exact crc_bytesAt_placeByte_ne hwf off v hv hlow (by omega)

end Sys2Proof.Machine
end

section
namespace Sys2Proof.Machine

/-! The bound of rule R170 on an enumeration: its count is at most the last offset, which lies inside the buffer. -/

/-- Without an enumeration the bound says nothing. -/
theorem State.WalkBound.of_idle {s : State} (h : s.wact = false) : s.WalkBound :=
  fun hwact => absurd (h.symm.trans hwact) nofun

/-- A yield moves forward to an offset in the buffer and adds one to the count. -/
theorem State.WalkBound.yield {s : State} (hs : s.Inv) (hbound : s.WalkBound) (hwact : s.wact = true)
    (hcur : s.wcur ≠ 0#32) (hforward : s.wfirst = true ∨ s.wprev.toNat < s.wcur.toNat)
    (hin : s.wcur.toNat + 32 ≤ s.buflen.toNat) (ty : Quad) (po ps nx : Word) :
    State.WalkBound { s with
      descType := ty, descPayoff := po, descPaysize := ps,
      wprev := s.wcur, wcur := nx, wcnt := s.wcnt + 1#32, wfirst := false } := by
  have hlt : s.wcnt.toNat < s.wcur.toNat := by
    cases hf : s.wfirst with
    | true => rw [hs.firstMeansNone hwact hf]; bv_omega
    | false =>
      obtain ⟨hcnt, -⟩ := hbound hwact hf
      have := hforward.resolve_left (by simp [hf])
      omega
  have hcnt : (s.wcnt + 1#32).toNat ≤ s.wcnt.toNat + 1 := Nat.mod_le _ _
  exact fun _ _ => ⟨hcnt.trans hlt, hin⟩

/-- Every command keeps the bound: only the walker's own commands and PDS_VALIDATE write what it speaks of. -/
theorem exec_keeps_walkBound {i : Instr} {s t : State} (hs : s.Inv) (hbound : s.WalkBound) (h : exec i s = .next t) :
    t.WalkBound := by
  rcases Bool.eq_false_or_eq_true s.aborted with ha | ha
  · rw [exec_of_aborted i ha] at h
    injection h with h
    exact h ▸ hbound
  by_cases hi : i ∈ [.pdsValidate, .walkStart, .walkNext, .walkStop]
  · simp only [List.mem_cons, List.not_mem_nil, or_false] at hi
    rcases hi with rfl | rfl | rfl | rfl
    · obtain ⟨_, _, _, -, rfl⟩ | ⟨_, _, _, _, _, _, -, -, -, -, rfl⟩ := execPdsValidate_next ha h <;> exact .of_idle rfl
    · obtain ⟨-, rfl⟩ | ⟨-, rfl⟩ := execWalkStart_next ha h
      · exact hbound
      · exact fun _ => nofun
    · obtain ⟨-, rfl⟩ | ⟨-, -, rfl⟩ | ⟨_, _, _, -, -, -, rfl⟩ | ⟨ty, po, ps, nx, hwact, hcur, hview, rfl⟩ :=
        execWalkNext_next ha h
      · exact hbound
      · exact .of_idle rfl
      · exact .of_idle rfl
      · obtain ⟨-, hforward, hin, -⟩ := descCheck_view hview
        exact State.WalkBound.yield hs hbound hwact hcur hforward hin ty po ps nx
    · obtain ⟨-, rfl⟩ | ⟨-, rfl⟩ := execWalkStop_next ha h
      · exact hbound
      · exact .of_idle rfl
  · obtain ⟨-, -, -, -, -, -, -, hwalker, hwact, -, -, -, -, -, hbuflen, -⟩ := commandFrame i s t h
    obtain ⟨-, hwprev, hwcnt, -, hwfirst⟩ := hwalker (by simp_all)
    rwa [State.WalkBound, hwact hi, hwprev, hwcnt, hwfirst, hbuflen]

/-- Settles O18, by the move served: a command keeps the bound, and of the other moves those that write BUFLEN or the
walker's registers end the enumeration. -/
theorem stepKeepsWalkBound : Obligations.StepKeepsWalkBound := by
  intro s t hs hbound h
  obtain ⟨-, rfl⟩ | ⟨rest, -, rfl⟩ | ⟨no, rest, -, rfl⟩ | ⟨off, v, rest, -, rfl⟩ | ⟨v, rest, -, hcmd⟩ |
    ⟨v, rest, -, rfl⟩ | ⟨no, v, rest, -, -, hbuflen, rfl⟩ := step_next h
  · exact hbound
  · exact .of_idle rfl
  · exact hbound
  · exact hbound
  · obtain ⟨-, rfl⟩ | ⟨-, -, rfl⟩ | ⟨-, i, -, hexec⟩ := issueCommand_next hcmd
    · exact hbound
    · exact hbound
    · exact exec_keeps_walkBound (hs.host rest) hbound hexec
  · exact .of_idle rfl
  · rw [hostWrite_operand no v _ hbuflen]
    exact hbound

end Sys2Proof.Machine
end

section
namespace Sys2Proof.Machine

/-! DescCheck (rule R164): the whole chain of its steps, and one equation per outcome. -/

/-- DescCheck, whatever the offset: the five steps as ifs, the header read byte by byte. -/
theorem descCheck_eq (s : State) (cur prev : Word) (cnt : Nat) (first : Bool) (cap : Nat) :
    descCheck s cur prev cnt first cap = some (
      if cnt ≥ cap then .error .maxDescriptorsExceeded 0#32 0#32
      else if first = false ∧ cur.toNat ≤ prev.toNat then .error .descriptorLoop cur 0#32
      else if cur.toNat + 32 > s.buflen.toNat then .error .descriptorOutOfBounds cur 0#32
      else if (u32At s cur.toNat).toNat < 32 then .error .invalidDescriptorHeaderSize (u32At s cur.toNat) 32#32
      else if (u32At s (cur.toNat + 4)).toNat + (u32At s (cur.toNat + 8)).toNat > s.buflen.toNat then
        .error .payloadOutOfBounds (u32At s (cur.toNat + 4)) (u32At s (cur.toNat + 8))
      else .view (u128At s (cur.toNat + 16)) (u32At s (cur.toNat + 4)) (u32At s (cur.toNat + 8))
        (u32At s (cur.toNat + 12))) := by
  rw [descCheck, apply_ite some, apply_ite some, apply_ite some]
  refine ite_congr rfl (fun _ => rfl) fun _ => ite_congr rfl (fun _ => rfl) fun _ =>
    ite_congr rfl (fun _ => rfl) fun hout => ?_
  rw [readDesc_of_le (Nat.le_of_not_lt hout)]
  simp only [leBits_bufBytes_four, leBits_bufBytes_sixteen]
  rfl

/-- Settles O50: DescCheck's answer does not depend on the offset being non-zero. -/
theorem descCheckSteps : Obligations.DescCheckSteps := fun s cur prev cnt first cap _ =>
  descCheck_eq s cur prev cnt first cap

section
variable {s : State} {cur prev : Word} {cnt : Nat} {first : Bool} {cap : Nat}

theorem descCheck_overCap (h : cap ≤ cnt) :
    descCheck s cur prev cnt first cap = some (.error .maxDescriptorsExceeded 0#32 0#32) := by
  rw [descCheck_eq, if_pos h]

variable (hcnt : cnt < cap)
include hcnt

theorem descCheck_backward (hfirst : first = false) (h : cur.toNat ≤ prev.toNat) :
    descCheck s cur prev cnt first cap = some (.error .descriptorLoop cur 0#32) := by
  rw [descCheck_eq, if_neg (Nat.not_le.mpr hcnt), if_pos ⟨hfirst, h⟩]

variable (hforward : first = true ∨ prev.toNat < cur.toNat)
include hforward

/-- Steps 1 and 2 passed: what steps 3 to 5 decide. -/
theorem descCheck_of_forward : descCheck s cur prev cnt first cap = some (
    if cur.toNat + 32 > s.buflen.toNat then .error .descriptorOutOfBounds cur 0#32
    else if (u32At s cur.toNat).toNat < 32 then .error .invalidDescriptorHeaderSize (u32At s cur.toNat) 32#32
    else if (u32At s (cur.toNat + 4)).toNat + (u32At s (cur.toNat + 8)).toNat > s.buflen.toNat then
      .error .payloadOutOfBounds (u32At s (cur.toNat + 4)) (u32At s (cur.toNat + 8))
    else .view (u128At s (cur.toNat + 16)) (u32At s (cur.toNat + 4)) (u32At s (cur.toNat + 8))
      (u32At s (cur.toNat + 12))) := by
  have hloop : ¬ (first = false ∧ cur.toNat ≤ prev.toNat) := by
    rintro ⟨rfl, hback⟩
    exact hforward.elim nofun (Nat.not_lt.mpr hback)
  rw [descCheck_eq, if_neg (Nat.not_le.mpr hcnt), if_neg hloop]

theorem descCheck_outside (h : s.buflen.toNat < cur.toNat + 32) :
    descCheck s cur prev cnt first cap = some (.error .descriptorOutOfBounds cur 0#32) := by
  rw [descCheck_of_forward hcnt hforward, if_pos h]

variable (hin : cur.toNat + 32 ≤ s.buflen.toNat)
include hin

theorem descCheck_shortHeader (h : (u32At s cur.toNat).toNat < 32) : descCheck s cur prev cnt first cap =
    some (.error .invalidDescriptorHeaderSize (u32At s cur.toNat) 32#32) := by
  rw [descCheck_of_forward hcnt hforward, if_neg (Nat.not_lt.mpr hin), if_pos h]

variable (hsize : 32 ≤ (u32At s cur.toNat).toNat)
include hsize

theorem descCheck_payloadOutside
    (h : s.buflen.toNat < (u32At s (cur.toNat + 4)).toNat + (u32At s (cur.toNat + 8)).toNat) :
    descCheck s cur prev cnt first cap =
      some (.error .payloadOutOfBounds (u32At s (cur.toNat + 4)) (u32At s (cur.toNat + 8))) := by
  rw [descCheck_of_forward hcnt hforward, if_neg (Nat.not_lt.mpr hin), if_neg (Nat.not_lt.mpr hsize), if_pos h]

theorem descCheck_passes
    (h : (u32At s (cur.toNat + 4)).toNat + (u32At s (cur.toNat + 8)).toNat ≤ s.buflen.toNat) :
    descCheck s cur prev cnt first cap = some (.view (u128At s (cur.toNat + 16)) (u32At s (cur.toNat + 4))
      (u32At s (cur.toNat + 8)) (u32At s (cur.toNat + 12))) := by
  rw [descCheck_of_forward hcnt hforward, if_neg (Nat.not_lt.mpr hin), if_neg (Nat.not_lt.mpr hsize),
    if_neg (Nat.not_lt.mpr h)]

end

end Sys2Proof.Machine
end

section
namespace Sys2Proof.Machine

/-! The commands on the walker context (rules R162 to R167): what each answers while ABORTED = 0. -/

section
variable {s : State} (ha : s.aborted = false)
include ha

/-- Each command's check of its flag comes right after that of ABORTED (rule R188). -/
theorem exec_walkStart : exec .walkStart s = requireFlag s.hdrv .noHeader s (.next (finish .ok 0#32 0#32 { s with
    wcur := s.hdrFirst, wprev := 0#32, wcnt := 0#32, wfirst := true, wmax := s.maxdesc, wact := true })) :=
  unlessAborted_of_clear ha _

theorem exec_walkStop : exec .walkStop s =
    requireFlag s.wact .noWalk s (.next (finish .ok 0#32 0#32 { s with wact := false })) :=
  unlessAborted_of_clear ha _

theorem exec_walkNext_idle (hwact : s.wact = false) : exec .walkNext s = .next (finish .noWalk 0#32 0#32 s) := by
  rw [exec, execWalkNext, unlessAborted_of_clear ha, hwact, requireFlag_of_clear]

theorem exec_walkNext_chainEnd (hwact : s.wact = true) (hcur : s.wcur = 0#32) :
    exec .walkNext s = .next (finish .chainEnd 0#32 0#32 { s with wact := false }) := by
  rw [exec, execWalkNext, unlessAborted_of_clear ha, hwact, requireFlag_of_set, if_pos (by exact hcur)]
  rfl

/-- A non-zero offset that fails a check ends the walk. -/
theorem exec_walkNext_error (hwact : s.wact = true) (hcur : s.wcur ≠ 0#32) {c : Code} {a b : Word}
    (hcheck : descCheck s s.wcur s.wprev s.wcnt.toNat s.wfirst s.wmax.toNat = some (.error c a b)) :
    exec .walkNext s = .next (finish c a b { s with wact := false }) := by
  rw [exec, execWalkNext, unlessAborted_of_clear ha, hwact, requireFlag_of_set, if_neg (by exact hcur), hcheck,
    orFault_some]
  rfl

/-- A non-zero offset that passes every check is yielded. -/
theorem exec_walkNext_view (hwact : s.wact = true) (hcur : s.wcur ≠ 0#32) {ty : Quad} {po ps nx : Word}
    (hcheck : descCheck s s.wcur s.wprev s.wcnt.toNat s.wfirst s.wmax.toNat = some (.view ty po ps nx)) :
    exec .walkNext s = .next (finish .ok 0#32 0#32 { s with
      descType := ty, descPayoff := po, descPaysize := ps,
      wprev := s.wcur, wcur := nx, wcnt := s.wcnt + 1#32, wfirst := false }) := by
  rw [exec, execWalkNext, unlessAborted_of_clear ha, hwact, requireFlag_of_set, if_neg (by exact hcur), hcheck,
    orFault_some]
  rfl

end

/-- Settles O48: the check of HDRV passes. -/
theorem walkStartResult : Obligations.WalkStartResult := by
  intro s ha hhdrv
  rw [exec_walkStart ha, hhdrv]
  rfl

/-- Settles O54: the check of WACT passes. -/
theorem walkStopResult : Obligations.WalkStopResult := by
  intro s ha hwact
  rw [exec_walkStop ha, hwact]
  rfl

/-- Settles O51: DescCheck passes the offset. -/
theorem walkNextYields : Obligations.WalkNextYields := by
  intro s ha hwact hcur hcnt hforward hin hsize hpayload
  exact exec_walkNext_view ha hwact hcur (descCheck_passes hcnt hforward hin hsize hpayload)

/-- Settles O52: each outcome of DescCheck but the view, those of the later steps where the earlier ones pass. -/
theorem walkNextEnds : Obligations.WalkNextEnds := by
  rintro s ha hwact z rfl
  refine ⟨exec_walkNext_chainEnd ha hwact,
    fun hcur hcap => exec_walkNext_error ha hwact hcur (descCheck_overCap hcap), fun hcur hcnt => ⟨?_, ?_⟩⟩
  · exact fun hfirst hback => exec_walkNext_error ha hwact hcur (descCheck_backward hcnt hfirst hback)
  intro hforward
  refine ⟨fun hout => exec_walkNext_error ha hwact hcur (descCheck_outside hcnt hforward hout), fun hin => ⟨?_, ?_⟩⟩
  · exact fun hshort => exec_walkNext_error ha hwact hcur (descCheck_shortHeader hcnt hforward hin hshort)
  · exact fun hsize hpayload =>
      exec_walkNext_error ha hwact hcur (descCheck_payloadOutside hcnt hforward hin hsize hpayload)

/-- A WALK_NEXT in an enumeration that ends with OK has yielded, every check passed. -/
theorem execWalkNext_ok {s t : State} (ha : s.aborted = false) (hwact : s.wact = true)
    (h : exec .walkNext s = .next t) (hok : t.status = 0#32) : ∃ ty po ps nx,
    descCheck s s.wcur s.wprev s.wcnt.toNat s.wfirst s.wmax.toNat = some (.view ty po ps nx) ∧
      t = finish .ok 0#32 0#32 { s with
        descType := ty, descPayoff := po, descPaysize := ps,
        wprev := s.wcur, wcur := nx, wcnt := s.wcnt + 1#32, wfirst := false } := by
  obtain ⟨hidle, -⟩ | ⟨-, -, rfl⟩ | ⟨_, _, _, -, -, herror, rfl⟩ | ⟨ty, po, ps, nx, -, -, hview, rfl⟩ :=
    execWalkNext_next ha h
  · exact absurd (hidle.symm.trans hwact) nofun
  · exact absurd hok (Code.word_ne_zero (c := .chainEnd) nofun)
  · exact absurd hok (Code.word_ne_zero (descCheck_error herror).1)
  · exact ⟨ty, po, ps, nx, hview, rfl⟩

/-- Settles O53: what a passed DescCheck says of the offset and the payload. -/
theorem walkIsForwardOnly : Obligations.WalkIsForwardOnly := by
  intro s t ha hwact h hok
  obtain ⟨ty, po, ps, nx, hview, rfl⟩ := execWalkNext_ok ha hwact h hok
  obtain ⟨-, hforward, hin, hpayload⟩ := descCheck_view hview
  exact ⟨rfl, fun hfirst => hforward.resolve_left (by simp [hfirst]), hin, hpayload⟩

/-- In an enumeration a WALK_NEXT counts one exactly when it yields, which it does only below the cap. -/
theorem exec_walkNext_count {s t : State} (ha : s.aborted = false) (hwact : s.wact = true)
    (hcap : s.wcnt.toNat ≤ s.wmax.toNat) (h : exec .walkNext s = .next t) :
    t.wcnt.toNat = s.wcnt.toNat + (if t.status = 0#32 then 1 else 0) ∧ t.wcnt.toNat ≤ t.wmax.toNat := by
  by_cases hok : t.status = 0#32
  · rw [if_pos hok]
    obtain ⟨_, _, _, _, hview, rfl⟩ := execWalkNext_ok ha hwact h hok
    obtain ⟨hlt, -⟩ := descCheck_view hview
    have hcnt : (s.wcnt + 1#32).toNat = s.wcnt.toNat + 1 := by bv_omega
    exact ⟨hcnt, hcnt.trans_le hlt⟩
  · rw [if_neg hok]
    obtain ⟨-, rfl⟩ | ⟨-, -, rfl⟩ | ⟨_, _, _, -, -, -, rfl⟩ | ⟨_, _, _, _, -, -, -, rfl⟩ := execWalkNext_next ha h
    · exact ⟨rfl, hcap⟩
    · exact ⟨rfl, hcap⟩
    · exact ⟨rfl, hcap⟩
    · exact absurd rfl hok

end Sys2Proof.Machine
end

section
namespace Sys2Proof.Machine

/-! FIND (rules R166, R168): its loop's ends, and what it answers while ABORTED = 0. -/

/-- The state a FIND that ends so leaves. -/
def FindResult.apply (s : State) : FindResult → State
  | .error c a b => finish c a b s
  | .found ty po ps => finish .ok 0#32 0#32 { s with descType := ty, descPayoff := po, descPaysize := ps }
  | .notFound => finish .notFound 0#32 0#32 s

section
variable {s : State} (ha : s.aborted = false)
include ha

theorem exec_find_noHeader (hhdrv : s.hdrv = false) : exec .find s = .next (finish .noHeader 0#32 0#32 s) := by
  rw [exec, execFind, unlessAborted_of_clear ha, hhdrv, requireFlag_of_clear]

/-- FIND's answer is the end of its loop, started at HDR_FIRST with cap 32. -/
theorem exec_find (hhdrv : s.hdrv = true) {r : FindResult}
    (hr : findLoop s 32 32 s.hdrFirst 0#32 true = some r) : exec .find s = .next (r.apply s) := by
  refine (unlessAborted_of_clear ha _).trans ((if_pos hhdrv).trans ((congrArg (orFault · _) hr).trans ?_))
  cases r <;> rfl

end

/-- Settles O49: the refusals are the checks of WACT and HDRV, WALK_START begins at 0, and WALK_NEXT counts its
yields. -/
theorem walkSequencingRefusals : Obligations.WalkSequencingRefusals := by
  refine ⟨fun s ha hwact => ⟨exec_walkNext_idle ha hwact, ?_⟩, fun s ha hhdrv => ⟨?_, exec_find_noHeader ha hhdrv⟩,
    fun s t ha hhdrv h => ?_, fun s t ha hwact hcap h => exec_walkNext_count ha hwact hcap h⟩
  · rw [exec_walkStop ha, hwact]
    rfl
  · rw [exec_walkStart ha, hhdrv]
    rfl
  · obtain rfl : _ = t := Host.Outcome.next.inj ((walkStartResult s ha hhdrv).symm.trans h)
    rfl

/-- The outcomes of DescCheck's five steps (rule R164). -/
def descErrors : List Code :=
  [.maxDescriptorsExceeded, .descriptorLoop, .descriptorOutOfBounds, .invalidDescriptorHeaderSize, .payloadOutOfBounds]

theorem descCheck_error_mem {s : State} {cur prev : Word} {cnt : Nat} {first : Bool} {cap : Nat} {c : Code} {a b : Word}
    (h : descCheck s cur prev cnt first cap = some (.error c a b)) : c ∈ descErrors := by
  rw [descCheck_eq, Option.some.injEq] at h
  split_ifs at h <;> (obtain ⟨rfl, -, -⟩ := DescResult.error.inj h; decide)

theorem ne_of_mem_descErrors {c : Code} (h : c ∈ descErrors) : c ≠ .ok ∧ c ≠ .notFound := by
  have hall : ∀ c ∈ descErrors, c ≠ .ok ∧ c ≠ .notFound := by decide
  exact hall c h

/-- What an end of FIND's loop says: an error is DescCheck's, a descriptor found has the type asked for and its payload
in the buffer. -/
def FindResult.Sound (s : State) : FindResult → Prop
  | .error c _ _ => c ∈ descErrors
  | .found ty po ps => ty = s.ftype ∧ po.toNat + ps.toNat ≤ s.buflen.toNat
  | .notFound => True

theorem findLoop_null (s : State) (cap left : Nat) (prev : Word) (first : Bool) :
    findLoop s cap left 0#32 prev first = some .notFound := by
  cases left <;> rfl

/-- How one turn of the loop comes to its end: at the end of the chain, by an error of DescCheck, by a match, or by
what the rest of the chain gives. -/
theorem findLoop_some {s : State} {cap left : Nat} {cur prev : Word} {first : Bool} {r : FindResult} (hle : left ≤ cap)
    (h : findLoop s cap left cur prev first = some r) :
    (cur = 0#32 ∧ r = .notFound) ∨
      (∃ c a b, cur ≠ 0#32 ∧ descCheck s cur prev (cap - left) first cap = some (.error c a b) ∧ r = .error c a b) ∨
      (∃ ty po ps nx, cur ≠ 0#32 ∧ descCheck s cur prev (cap - left) first cap = some (.view ty po ps nx) ∧
        ((ty = s.ftype ∧ r = .found ty po ps) ∨
          (ty ≠ s.ftype ∧ ∃ m, left = m + 1 ∧ findLoop s cap m nx cur false = some r))) := by
  rw [findLoop_turn s cap left cur prev first hle] at h
  split at h
  · next hcur => exact .inl ⟨hcur, (Option.some.inj h).symm⟩
  next hcur =>
  obtain ⟨d, hd⟩ := descCheck_isSome s cur prev (cap - left) first cap
  rw [hd] at h
  cases d with
  | error c a b => exact .inr (.inl ⟨c, a, b, hcur, hd, (Option.some.inj h).symm⟩)
  | view ty po ps nx =>
    refine .inr (.inr ⟨ty, po, ps, nx, hcur, hd, ?_⟩)
    by_cases hty : ty = s.ftype
    · exact .inl ⟨hty, (Option.some.inj ((if_pos hty).symm.trans h)).symm⟩
    · obtain ⟨hcount, -⟩ := descCheck_view hd
      exact .inr ⟨hty, left - 1, by omega, (if_neg hty).symm.trans h⟩

theorem findLoop_sound {s : State} {cap left : Nat} {cur prev : Word} {first : Bool} {r : FindResult} (hle : left ≤ cap)
    (h : findLoop s cap left cur prev first = some r) : r.Sound s := by
  induction left using Nat.strong_induction_on generalizing cur prev first with
  | _ left ih =>
    obtain ⟨-, rfl⟩ | ⟨c, a, b, -, herror, rfl⟩ | ⟨ty, po, ps, nx, -, hview, ⟨hty, rfl⟩ | ⟨-, m, rfl, hrest⟩⟩ :=
      findLoop_some hle h
    · trivial
    · exact descCheck_error_mem herror
    · obtain ⟨-, -, -, hpayload⟩ := descCheck_view hview
      exact ⟨hty, hpayload⟩
    · exact ih m (Nat.lt_succ_self m) (Nat.le_of_succ_le hle) hrest

/-- Settles O56: the loop ends in its first turn. -/
theorem findResult : Obligations.FindResult := by
  intro s ha hhdrv
  refine ⟨fun hfirst hin hsize hpayload hty => ?_, fun hfirst => ?_⟩
  · have hview := descCheck_passes (prev := 0#32) (cnt := 0) (cap := 32) (by decide) (.inl rfl) hin hsize hpayload
    rw [hty] at hview
    refine exec_find ha hhdrv (r := .found s.ftype (u32At s (s.hdrFirst.toNat + 4)) (u32At s (s.hdrFirst.toNat + 8))) ?_
    rw [findLoop_turn s 32 32 _ _ _ le_rfl, if_neg (by exact hfirst), hview]
    exact if_pos rfl
  · exact exec_find ha hhdrv (hfirst ▸ findLoop_null s 32 32 0#32 true)

/-- Settles O55: the state each end of the loop leaves, with what that end says. -/
theorem findOutcome : Obligations.FindOutcome := by
  intro s ha hhdrv
  obtain ⟨r, hr⟩ := findLoop_isSome s 32 32 s.hdrFirst 0#32 true
  have hempty : s.hdrFirst = 0#32 → r = .notFound := fun hfirst =>
    Option.some.inj (hr.symm.trans (hfirst ▸ findLoop_null s 32 32 0#32 true))
  refine ⟨r.apply s, exec_find ha hhdrv hr, ?_⟩
  cases r with
  | error c a b =>
    have hc : c ∈ descErrors := findLoop_sound le_rfl hr
    obtain ⟨hok, hnotFound⟩ := ne_of_mem_descErrors hc
    have hwords : ∀ c ∈ descErrors,
      c.word ∈ [0x00#32, 0x06#32, 0x07#32, 0x08#32, 0x09#32, 0x0A#32, 0x11#32] := by decide
    exact ⟨rfl, hwords c hc, fun _ => ⟨rfl, rfl, rfl⟩, fun h => absurd (Code.word_inj (d := .ok) h) hok,
      fun h => absurd (Code.word_inj (d := .notFound) h) hnotFound, fun h => nomatch hempty h⟩
  | found ty po ps =>
    obtain ⟨hty, hpayload⟩ := findLoop_sound le_rfl hr
    exact ⟨rfl, List.mem_cons_self, fun h => absurd rfl h, fun _ => ⟨rfl, rfl, hty, hpayload⟩, fun _ => ⟨rfl, rfl⟩,
      fun h => nomatch hempty h⟩
  | notFound =>
    exact ⟨rfl, List.mem_of_getElem? (i := 6) rfl, fun _ => ⟨rfl, rfl, rfl⟩, nofun, fun _ => ⟨rfl, rfl⟩, fun _ => rfl⟩

end Sys2Proof.Machine
end

section
namespace Sys2Proof.Machine

/-! FIND against the host's for_each_descriptor (rules R83, R168): the two loops turn by turn. -/

section
variable {α : Type} {visit : DescView → α → α × Bool} (n : Nat) {a b : α} {s t : State}

/-! One turn of the host's loop, by what WALK_NEXT ended with and what visit says. -/

theorem forEachLoop_chainEnd (a : α) (h : exec .walkNext { s with host := [] } = .next t)
    (hend : t.status = Code.chainEnd.word) : forEachLoop visit (n + 1) a s =
      .next (.ok a, { t with host := [], readData := t.status.setWidth 1024 }) := by
  rw [forEachLoop_turn _ _ _ h, hend, if_neg (by decide), if_pos rfl]

theorem forEachLoop_error (a : α) (h : exec .walkNext { s with host := [] } = .next t)
    (hok : t.status ≠ Code.ok.word) (hchainEnd : t.status ≠ Code.chainEnd.word) : forEachLoop visit (n + 1) a s =
      .next (.error t.status t.err0 t.err1, { t with host := [], readData := t.err1.setWidth 1024 }) := by
  rw [forEachLoop_turn _ _ _ h, if_neg hok, if_neg hchainEnd]

theorem forEachLoop_goesOn (h : exec .walkNext { s with host := [] } = .next t) (hok : t.status = Code.ok.word)
    (hvisit : visit ⟨t.descType, t.descPayoff, t.descPaysize⟩ a = (b, false)) : forEachLoop visit (n + 1) a s =
      forEachLoop visit n b { t with host := [], readData := t.descPaysize.setWidth 1024 } := by
  rw [forEachLoop_turn _ _ _ h, if_pos hok, hvisit]
  rfl

theorem forEachLoop_stops (h : exec .walkNext { s with host := [] } = .next t) (hok : t.status = Code.ok.word)
    (hvisit : visit ⟨t.descType, t.descPayoff, t.descPaysize⟩ a = (b, true)) :
    ∃ w, forEachLoop visit (n + 1) a s = .next (.ok b, w) := by
  obtain ⟨w, hw⟩ := exec_completes .walkStop { t with host := [], readData := t.descPaysize.setWidth 1024 }
  rw [forEachLoop_turn _ _ _ h, if_pos hok, hvisit, if_pos rfl, hw]
  exact ⟨w, rfl⟩

end

/-- What for_each_descriptor, its visit stopping at the first match, answers where FIND's loop ends so. -/
def FindResult.apiEnd : FindResult → ApiEnd (Option DescView)
  | .error c a b => .error c.word a b
  | .found ty po ps => .ok (some ⟨ty, po, ps⟩)
  | .notFound => .ok none

/-- u is in an enumeration with cap 32 over the buffer of s, left yields below the cap. -/
structure State.Enumerating (s : State) (left : Nat) (u : State) : Prop where
  aborted : u.aborted = false
  wact : u.wact = true
  buf : u.buf = s.buf
  buflen : u.buflen = s.buflen
  wmax : u.wmax = 32#32
  left : u.wcnt.toNat + left = 32

/-- WALK_NEXT checks what FIND's loop checks. -/
theorem State.Enumerating.descCheck_eq {s u : State} {left : Nat} (hu : s.Enumerating left u) (ms : List HostMove) :
    descCheck { u with host := ms } u.wcur u.wprev u.wcnt.toNat u.wfirst u.wmax.toNat =
      descCheck s u.wcur u.wprev (32 - left) u.wfirst 32 := by
  have hcnt : u.wcnt.toNat = 32 - left := by have := hu.left; omega
  rw [descCheck_congr (s := s) (t := { u with host := ms }) hu.buf hu.buflen, hu.wmax, hcnt]
  rfl

/-- A yield leaves one yield less. -/
theorem State.Enumerating.yield {s u : State} {left : Nat} (hu : s.Enumerating (left + 1) u) (ty : Quad)
    (po ps nx : Word) (ms : List HostMove) (v : BitVec 1024) : s.Enumerating left
      { finish .ok 0#32 0#32 { u with
          descType := ty, descPayoff := po, descPaysize := ps,
          wprev := u.wcur, wcur := nx, wcnt := u.wcnt + 1#32, wfirst := false } with host := ms, readData := v } :=
  { hu with
    left := by
      have hcnt := hu.left
      show (u.wcnt + 1#32).toNat + left = 32
      bv_omega }

/-- The host's loop ends as FIND's loop does, by induction on what is left of the cap. -/
theorem State.Enumerating.forEachLoop_firstOf {s u : State} {left : Nat} {r : FindResult} (hu : s.Enumerating left u)
    (hr : findLoop s 32 left u.wcur u.wprev u.wfirst = some r) :
    ∃ w, forEachLoop (firstOf s.ftype) (left + 1) none u = .next (r.apiEnd, w) := by
  induction left using Nat.strong_induction_on generalizing u with
  | _ left ih =>
    have hcheck := hu.descCheck_eq []
    have hle : left ≤ 32 := by have := hu.left; omega
    obtain ⟨hcur, rfl⟩ | ⟨c, a, b, hcur, herror, rfl⟩ | ⟨ty, po, ps, nx, hcur, hview, hrest⟩ := findLoop_some hle hr
    · exact ⟨_, forEachLoop_chainEnd _ _ (exec_walkNext_chainEnd hu.aborted hu.wact hcur) rfl⟩
    · obtain ⟨hok, hchainEnd, -⟩ := descCheck_error herror
      have hends := exec_walkNext_error (s := { u with host := [] }) hu.aborted hu.wact hcur (hcheck.trans herror)
      exact ⟨_, forEachLoop_error _ _ hends (fun h => hok (Code.word_inj h)) (fun h => hchainEnd (Code.word_inj h))⟩
    have hyield := exec_walkNext_view (s := { u with host := [] }) hu.aborted hu.wact hcur (hcheck.trans hview)
    obtain ⟨hty, rfl⟩ | ⟨hty, m, rfl, hrest⟩ := hrest
    · have hvisit : firstOf s.ftype ⟨ty, po, ps⟩ none = (some ⟨ty, po, ps⟩, true) := if_pos hty
      exact forEachLoop_stops _ hyield rfl hvisit
    · have hvisit : firstOf s.ftype ⟨ty, po, ps⟩ none = (none, false) := if_neg hty
      rw [forEachLoop_goesOn _ hyield rfl hvisit]
      exact ih m (Nat.lt_succ_self m) (hu.yield ..) hrest

/-- `WR MAXDESC, 32`; `WALK_START` begins where FIND's loop begins. -/
theorem runMoves_startEnumeration {s : State} (ha : s.aborted = false) (hhdrv : s.hdrv = true) :
    ∃ v, runMoves [.write 0x11 (32#32).toNat, cmdMove (encode .walkStart)] s = .next v ∧
      s.Enumerating 32 v ∧ v.wcur = s.hdrFirst ∧ v.wprev = 0#32 ∧ v.wfirst = true :=
  ⟨_, (runMoves_write (by decide) rfl rfl).trans ((runMoves_cmd _ _).trans (walkStartResult _ ha hhdrv)),
    ⟨ha, rfl, rfl, rfl, rfl, rfl⟩, rfl, rfl, rfl⟩

/-- Settles O57: the two loops start alike and end alike, and FIND's STATUS tells its loop's ends apart. -/
theorem findAgreesWithEnumeration : Obligations.FindAgreesWithEnumeration := by
  intro s ha hhdrv
  obtain ⟨r, hr⟩ := findLoop_isSome s 32 32 s.hdrFirst 0#32 true
  obtain ⟨v, hv, henum, hwcur, hwprev, hwfirst⟩ := runMoves_startEnumeration ha hhdrv
  obtain ⟨w, hw⟩ := henum.forEachLoop_firstOf (r := r) (by rw [hwcur, hwprev, hwfirst, hr])
  refine ⟨_, r.apiEnd, w, exec_find ha hhdrv hr, ?_, ?_⟩
  · rw [apiForEach, hv, andThen_of_next, henum.wmax]
    exact hw
  cases r with
  | error c a b =>
    obtain ⟨hok, hnotFound⟩ := ne_of_mem_descErrors (findLoop_sound le_rfl hr)
    exact ⟨fun h => absurd (Code.word_inj (d := .ok) h) hok,
      fun h => absurd (Code.word_inj (d := .notFound) h) hnotFound, fun _ _ => rfl⟩
  | found ty po ps => exact ⟨fun _ => rfl, nofun, fun h => absurd rfl h⟩
  | notFound => exact ⟨nofun, fun _ => rfl, fun _ h => absurd rfl h⟩

end Sys2Proof.Machine
end

section
namespace Sys2Proof.Machine

/-! The abort (rule R186): what DG_BUF answers on a bad length, and what serving a move answers while ABORTED = 1. -/

/-- The length check fails before any read of the buffer. -/
theorem exec_dgBuf_badLength {s : State} (ha : s.aborted = false) (h8 : s.buflen.toNat % 8 ≠ 0) :
    exec .dgBuf s = .next (abort s) :=
  (unlessAborted_of_clear ha _).trans (if_pos h8)

/-- Any word written to CMD, decoded or rejected, changes nothing. -/
theorem issueCommand_of_aborted (w : Word) {s : State} (ha : s.aborted = true) : issueCommand w s = .next s := by
  unfold issueCommand
  cases decode w with
  | instr i => exact exec_of_aborted i ha
  | rejected _ => exact unlessAborted_of_set ha _

/-- What a host write stores neither depends on ABORTED nor changes it. -/
theorem hostWrite_withAborted (no v : Nat) (s : State) (f : Bool) :
    hostWrite no v { s with aborted := f } = { hostWrite no v s with aborted := f } := by
  unfold hostWrite
  cases regOfNo no with
  | none => rfl
  | some r => cases r <;> rfl

/-- An operand write on an aborted CORE is the one on a CORE that is not, with ABORTED kept. -/
theorem step_write_of_aborted {s : State} {no v : Nat} {rest : List HostMove} (ha : s.aborted = true) (hno : no ≠ 0x00)
    (h : s.host = .write no v :: rest) :
    ∃ t, step { s with aborted := false } = .next t ∧ step s = .next { t with aborted := true } := by
  refine ⟨_, step_write (s := { s with aborted := false }) h hno, ?_⟩
  rw [← hostWrite_withAborted, step_write h hno, ← ha]

/-- Settles O13: each move has its answer while ABORTED = 1, and that only reset clears ABORTED is a clause of O12. -/
theorem abortIsSticky : Obligations.AbortIsSticky := by
  refine ⟨fun _ => exec_dgBuf_badLength, fun s v rest ha h => ?_, fun _ _ _ _ => step_write_of_aborted,
    fun _ _ _ _ => step_read, fun s t ha hstep hclear => ?_⟩
  · rw [step_cmd h]
    exact issueCommand_of_aborted _ ha
  · obtain ⟨-, -, -, -, -, -, -, -, -, -, -, -, -, honlyReset⟩ := flagsChangeOnlyByTheirEvents s t hstep
    exact honlyReset ha hclear

end Sys2Proof.Machine
end

section
namespace Sys2Proof.Machine

/-! Reset as a step of the machine (rule R210), and the key register consumed by the four key commands (rule R217). -/

/-- A reset in any state, ABORTED included, is served at once. -/
theorem step_reset {s : State} {rest : List HostMove} (h : s.host = .reset :: rest) :
    step s = .next (resetCore { s with host := rest }) := step_cons h

/-- Settles O11: the state after a reset move has the values of the reset state, settled in O10, and that only reset
clears RKV and ABORTED are two clauses of O12. -/
theorem resetMoveEffect : Obligations.ResetMoveEffect := by
  refine ⟨fun s ⟨rest, h⟩ => ⟨_, step_reset h, ?_⟩, fun s t h => ?_⟩
  · simpa [Obligations.ResetStateValues] using resetStateValues
  · obtain ⟨-, hrkv, -, -, -, -, -, -, -, -, -, -, -, haborted⟩ := flagsChangeOnlyByTheirEvents s t h
    exact ⟨haborted, hrkv⟩

/-- Each of the four key commands ends OK, clears KEYIN and does not abort, so that another command can run next. -/
theorem exec_consumes_key {i : Instr} {s t : State} (hi : i ∈ [Instr.keyexp80, .keyexp128, .scramble, .unscramble])
    (ha : s.aborted = false) (h : exec i s = .next t) : t.keyin = 0#128 ∧ t.status = 0#32 ∧ t.aborted = false := by
  simp only [List.mem_cons, List.not_mem_nil, or_false] at hi
  rcases hi with rfl | rfl | rfl | rfl
  · obtain rfl := execKeyexp80_next ha h
    exact ⟨rfl, rfl, ha⟩
  · obtain rfl := execKeyexp128_next ha h
    exact ⟨rfl, rfl, ha⟩
  · obtain rfl := execScramble_next ha h
    exact ⟨rfl, rfl, ha⟩
  · obtain rfl := execUnscramble_next ha h
    exact ⟨rfl, rfl, ha⟩

/-- Settles O34: the first command leaves KEYIN = 0 and ABORTED = 0, so the second runs to its end on the zero key. -/
theorem keyIsConsumed : Obligations.KeyIsConsumed := by
  intro i j s t u hi hj ha hfirst hsecond
  obtain ⟨hkey, -, ha'⟩ := exec_consumes_key hi ha hfirst
  obtain ⟨-, hstatus, -⟩ := exec_consumes_key hj ha' hsecond
  refine ⟨hkey, hstatus, ?_, ?_, ?_, ?_⟩ <;> rintro rfl
  · obtain rfl := execKeyexp80_next ha' hsecond
    simp [shortKey, hkey]
  · obtain rfl := execKeyexp128_next ha' hsecond
    simp [hkey]
  · obtain rfl := execScramble_next ha' hsecond
    simp [hkey]
  · obtain rfl := execUnscramble_next ha' hsecond
    simp [hkey]

end Sys2Proof.Machine
end
